-- ==== Sys2Proof/Word.lean ====
section
/-! DEFINITION. The bit-vector types of the block (10_state.md R9, R10, R48). -/

namespace Sys2Proof

/-- One byte of guest memory, of a frame or of a descriptor. -/
abbrev Byte := BitVec 8

/-- A register value: no register is wider or narrower than 32 bits (10_state.md R10). -/
abbrev Word := BitVec 32

/-- A guest memory address (20_memory.md R72). -/
abbrev Addr := BitVec 64

end Sys2Proof
end

