-- ==== Sys2Proof/Config.lean ====
section
/-! DEFINITION. The implementation parameters of 00_scope.md R5, each at the spec's default (log entry 6).
`MAC_ADDR`, which has no default, is the field `mac` of the state (log entry 5). `TICK_NS` is informative and used by
no rule. -/

namespace Sys2Proof.Config

/-- `MMIO_SIZE`, bytes of the memory-mapped region (00_scope.md R5). DESIGN CHOICE: the default. -/
def mmioSize : Nat := 0x20000

/-- `EEPROM_WORDS` (00_scope.md R5). -/
def eepromWords : Nat := 64

/-- `EEPROM_SUM` (00_scope.md R5). -/
def eepromSum : Nat := 0xBABA

/-- `DESC_SIZE`, bytes per descriptor (00_scope.md R5). -/
def descSize : Nat := 16

/-- `TX_FRAME_MAX`, bytes (00_scope.md R5). -/
def txFrameMax : Nat := 65536

/-- `PHY_ADDR`, the one PHY address that answers (00_scope.md R5). -/
def phyAddr : BitVec 5 := 1#5

/-- `TXSTA_ERR`, the transmit status error indicator, in the status nibble (00_scope.md R5, 30_encoding.md R102). -/
def txstaErr : BitVec 4 := 0x2#4

/-- `RXERR_TRUNC`, the receive error flag RXE (00_scope.md R5, 30_encoding.md R106). -/
def rxerrTrunc : Byte := 0x80#8

end Sys2Proof.Config
end

