-- ==== Sys2Proof/Syntax.lean ====
section
/-! DEFINITION. The operations of the block: one constructor of `Instr` for each row of spec/opcode_table.json, with the
accesses, commands and descriptors that are their operands (30_encoding.md). -/

namespace Sys2Proof

/-- Direction of an MMIO access (20_memory.md R60). -/
inductive Dir where
  | read
  | write
deriving DecidableEq, Repr

/-- The 22 registers of 10_state.md R10, in increasing order of offset. -/
inductive Reg where
  | ctrl | status | eerd | mdic | icr | itr | ics | ims | imc | rctl | tctl
  | rdbal | rdbah | rdlen | rdh | rdt
  | tdbal | tdbah | tdlen | tdh | tdt
  | rxcsum
deriving DecidableEq, Repr

/-- An MMIO access (20_memory.md R60). `off` is a non-negative integer of any size and `width` any number of bytes
(40_dispatcher.md R131 checks both); `wdata` is zero-extended to 64 bits (30_encoding.md R91). -/
structure Access where
  dir : Dir
  off : Nat
  width : Nat
  wdata : BitVec 64
deriving DecidableEq, Repr

/-- The sub-causes of AccessFault (60_exceptions.md R330). -/
inductive AccessCause where
  | badWidth
  | outOfRange
  | misaligned
deriving DecidableEq, Repr

/-- The fields of an MDI command that every kind of command has (10_state.md R19): the interrupt enable I, the PHY
register number and the data. -/
structure MdiFields where
  i : Bool
  regadd : BitVec 5
  data : BitVec 16
deriving DecidableEq, Repr

/-- A LEGACY transmit descriptor (30_encoding.md R100, R101). The command byte stands as its flags; DEXT is 0. -/
structure LegacyDesc where
  addr : Addr
  length : BitVec 16
  cso : Byte
  eop : Bool
  ifcs : Bool
  ic : Bool
  rs : Bool
  rps : Bool
  vle : Bool
  ide : Bool
  sta : BitVec 4
  rsv : BitVec 4
  css : Byte
  special : BitVec 16
deriving DecidableEq, Repr

/-- A CONTEXT transmit descriptor (30_encoding.md R103). `rsv4` and `rsv6` are the reserved bits of `tucmd`. -/
structure ContextDesc where
  ipcss : Byte
  ipcso : Byte
  ipcse : BitVec 16
  tucss : Byte
  tucso : Byte
  tucse : BitVec 16
  paylen : BitVec 20
  tcp : Bool
  ip : Bool
  tse : Bool
  rs : Bool
  rsv4 : Bool
  rsv6 : Bool
  ide : Bool
  sta : BitVec 4
  rsv : BitVec 4
  hdrlen : Byte
  mss : BitVec 16
deriving DecidableEq, Repr

/-- A DATA transmit descriptor (30_encoding.md R104). -/
structure DataDesc where
  addr : Addr
  dtalen : BitVec 20
  eop : Bool
  ifcs : Bool
  tse : Bool
  rs : Bool
  rps : Bool
  vle : Bool
  ide : Bool
  sta : BitVec 4
  rsv : BitVec 4
  popts : Byte
  special : BitVec 16
deriving DecidableEq, Repr

/-- A transmit descriptor of a reserved kind: DEXT is 1 and `dtyp` is 2 or more (30_encoding.md R99). Only EOP, RS and the
status byte have a meaning (44_transmit.md R254); the other bits are kept as they stand: `low` is bits 83:0, `b1` to `b7`
the other command bits and `high` bits 127:104. -/
structure ReservedDesc where
  low : BitVec 84
  dtyp : BitVec 4
  eop : Bool
  b1 : Bool
  b2 : Bool
  rs : Bool
  b4 : Bool
  b6 : Bool
  b7 : Bool
  sta : BitVec 4
  rsv : BitVec 4
  high : BitVec 24
deriving DecidableEq, Repr

/-- A receive descriptor (30_encoding.md R106). -/
structure RxDesc where
  addr : Addr
  length : BitVec 16
  csum : BitVec 16
  status : Byte
  errors : Byte
  special : BitVec 16
deriving DecidableEq, Repr

/-- An MDI command, told apart by OP and PHYADD (30_encoding.md R109, 43_eeprom_mdic.md R221, R223). -/
inductive MdiCmd where
  | read (c : MdiFields)
  | write (c : MdiFields)
  | reserved (op : BitVec 2) (phyadd : BitVec 5) (c : MdiFields)
deriving DecidableEq, Repr

/-- A transmit descriptor, told apart by DEXT and DTYP (30_encoding.md R99). -/
inductive TxDesc where
  | legacy (d : LegacyDesc)
  | context (d : ContextDesc)
  | data (d : DataDesc)
  | reserved (d : ReservedDesc)
deriving DecidableEq, Repr

/-- An operation of one of the four agents (00_scope.md R6, 60_exceptions.md R361). -/
inductive Operation where
  | access (acc : Access)
  | rxFrame (frame : List Byte)
  | tick
  | powerOn
deriving DecidableEq, Repr

/-- What the block decodes, with the format the bits have (30_encoding.md R110): an access as a tuple or as the canonical
access word with its write data beside it (R90), an MDI command, an EEPROM command, the bytes of a transmit or of a
receive descriptor, and the events. -/
inductive Wire where
  | access (acc : Access)
  | aw (w : Word) (wdata : BitVec 64)
  | mdicmd (w : Word)
  | eecmd (w : Word)
  | txdesc (bytes : List Byte)
  | rxdesc (bytes : List Byte)
  | frame (bytes : List Byte)
  | tick
  | powerOn
deriving DecidableEq, Repr

/-- The formats of spec/opcode_table.json (30_encoding.md R110). -/
inductive Format where
  | dwop
  | access
  | mdicmd
  | eecmd
  | txdesc128
  | rxdesc128
  | event
deriving DecidableEq, Repr

/-- One operation of spec/opcode_table.json. -/
inductive Instr where
  -- 41, 42, 43: dword reads, no operand, and dword writes with the written value and the byte enables, by register
  | rdCtrl
  | wrCtrl (wv : Word) (be : BitVec 4)
  | rdStatus
  | wrStatus (wv : Word) (be : BitVec 4)
  | rdEerd
  | wrEerd (wv : Word) (be : BitVec 4)
  | rdMdic
  | wrMdic (wv : Word) (be : BitVec 4)
  | rdIcr
  | wrIcr (wv : Word) (be : BitVec 4)
  | rdItr
  | wrItr (wv : Word) (be : BitVec 4)
  | rdIcs
  | wrIcs (wv : Word) (be : BitVec 4)
  | rdIms
  | wrIms (wv : Word) (be : BitVec 4)
  | rdImc
  | wrImc (wv : Word) (be : BitVec 4)
  | rdRctl
  | wrRctl (wv : Word) (be : BitVec 4)
  | rdTctl
  | wrTctl (wv : Word) (be : BitVec 4)
  | rdRdbal
  | wrRdbal (wv : Word) (be : BitVec 4)
  | rdRdbah
  | wrRdbah (wv : Word) (be : BitVec 4)
  | rdRdlen
  | wrRdlen (wv : Word) (be : BitVec 4)
  | rdRdh
  | wrRdh (wv : Word) (be : BitVec 4)
  | rdRdt
  | wrRdt (wv : Word) (be : BitVec 4)
  | rdTdbal
  | wrTdbal (wv : Word) (be : BitVec 4)
  | rdTdbah
  | wrTdbah (wv : Word) (be : BitVec 4)
  | rdTdlen
  | wrTdlen (wv : Word) (be : BitVec 4)
  | rdTdh
  | wrTdh (wv : Word) (be : BitVec 4)
  | rdTdt
  | wrTdt (wv : Word) (be : BitVec 4)
  | rdRxcsum
  | wrRxcsum (wv : Word) (be : BitVec 4)
  -- 40: offsets that are no register's, by dword offset, and the access that fails a check
  | rdUnmapped (a : BitVec 24)
  | wrUnmapped (a : BitVec 24) (wv : Word) (be : BitVec 4)
  | accessFault (cause : AccessCause) (acc : Access)
  -- 43: the command in R.MDIC and the command in EERD
  | mdicRead (c : MdiFields)
  | mdicWrite (c : MdiFields)
  | mdicReserved (op : BitVec 2) (phyadd : BitVec 5) (c : MdiFields)
  | eerdStart (adr : Byte) (data : BitVec 16)
  -- 44, 45: one transmit descriptor of a drain
  | txdLegacy (d : LegacyDesc)
  | txdContext (d : ContextDesc)
  | txdData (d : DataDesc)
  | txdReserved (d : ReservedDesc)
  -- 46: one receive descriptor of a fill
  | rxd (d : RxDesc)
  -- 46, 60, 70: the events
  | rxFrame (frame : List Byte)
  | timerTick
  | resetPoweron
deriving DecidableEq, Repr

end Sys2Proof
end

