-- ==== Sys2Proof/Machine/Bits.lean ====
section
/-! DEFINITION. Byte order and byte enables (00_scope.md R8, 30_encoding.md R92, R93, R99, R107). -/

namespace Sys2Proof

/-- The little-endian value of a byte sequence, lowest address least significant (00_scope.md R8; on the 16 bytes of a
descriptor this is the integer `D` of 30_encoding.md R99). -/
def leNat : List Byte → Nat
  | [] => 0
  | b :: bs => b.toNat + 256 * leNat bs

/-- The `n` little-endian bytes of a value. -/
def leBytes : Nat → Nat → List Byte
  | 0, _ => []
  | n + 1, v => BitVec.ofNat 8 v :: leBytes n (v / 256)

/-- `s[i]`, byte `i` of a sequence (00_scope.md R8); 0 past its end, where no rule reads. -/
def byteAt (s : List Byte) (i : Nat) : Byte := s.getD i 0#8

/-- `s[a:b]`, bytes `a` to `b - 1` (00_scope.md R8). -/
def slice (s : List Byte) (a b : Nat) : List Byte := (s.take b).drop a

/-- `le16(s, i)` (00_scope.md R8). -/
def le16 (s : List Byte) (i : Nat) : Nat := (byteAt s i).toNat + 256 * (byteAt s (i + 1)).toNat

/-- `be16(s, i)` (00_scope.md R8). -/
def be16 (s : List Byte) (i : Nat) : Nat := 256 * (byteAt s i).toNat + (byteAt s (i + 1)).toNat

/-- `be32(s, i)` (00_scope.md R8). -/
def be32 (s : List Byte) (i : Nat) : Nat := 65536 * be16 s i + be16 s (i + 2)

/-- `put_le16(v)` (00_scope.md R8). -/
def putLe16 (v : Nat) : List Byte := [BitVec.ofNat 8 v, BitVec.ofNat 8 (v / 256)]

/-- `put_be16(v)` (00_scope.md R8). -/
def putBe16 (v : Nat) : List Byte := [BitVec.ofNat 8 (v / 256), BitVec.ofNat 8 v]

/-- `put_be32(v)` (00_scope.md R8). -/
def putBe32 (v : Nat) : List Byte := putBe16 (v / 65536) ++ putBe16 v

/-- `s[i..] <- bytes`: overwrites `|bytes|` bytes of `s` starting at `i` (00_scope.md R8). -/
def overwrite (s : List Byte) (i : Nat) : List Byte → List Byte
  | [] => s
  | b :: bs => overwrite (s.set i b) (i + 1) bs

/-- `ByteMask(be)` (30_encoding.md R93). -/
def byteMask (be : BitVec 4) : Word :=
  (if be.getLsbD 3 then 0xFF#8 else 0#8) ++ (if be.getLsbD 2 then 0xFF#8 else 0#8) ++
    (if be.getLsbD 1 then 0xFF#8 else 0#8) ++ (if be.getLsbD 0 then 0xFF#8 else 0#8)

/-- The width and the lane of the access that a single dword operation comes from (30_encoding.md R92, the table read
from right to left); none for byte enables that no access of at most 4 bytes has. -/
def laneOf (be : BitVec 4) : Option (Nat × Nat) :=
  if be = 0b0001#4 then some (1, 0) else if be = 0b0010#4 then some (1, 1)
  else if be = 0b0100#4 then some (1, 2) else if be = 0b1000#4 then some (1, 3)
  else if be = 0b0011#4 then some (2, 0) else if be = 0b1100#4 then some (2, 2)
  else if be = 0b1111#4 then some (4, 0) else none

end Sys2Proof
end

