-- ==== Sys2Proof/Machine/RegMap.lean ====
section
/-! DEFINITION. The register map: offsets, masks and reset values of 10_state.md R10 and 30_encoding.md R96, and the checks
of an access (40_dispatcher.md R131). -/

namespace Sys2Proof

/-- Every register, in increasing order of offset (30_encoding.md R96). -/
def Reg.all : List Reg :=
  [.ctrl, .status, .eerd, .mdic, .icr, .itr, .ics, .ims, .imc, .rctl, .tctl, .rdbal, .rdbah, .rdlen, .rdh, .rdt,
   .tdbal, .tdbah, .tdlen, .tdh, .tdt, .rxcsum]

/-- `OFF_<NAME>` (30_encoding.md R96), each at its default (log entry 6). -/
def Reg.offset : Reg → Nat
  | .ctrl => 0x00000
  | .status => 0x00008
  | .eerd => 0x00014
  | .mdic => 0x00020
  | .icr => 0x000C0
  | .itr => 0x000C4
  | .ics => 0x000C8
  | .ims => 0x000D0
  | .imc => 0x000D8
  | .rctl => 0x00100
  | .tctl => 0x00400
  | .rdbal => 0x02800
  | .rdbah => 0x02804
  | .rdlen => 0x02808
  | .rdh => 0x02810
  | .rdt => 0x02818
  | .tdbal => 0x03800
  | .tdbah => 0x03804
  | .tdlen => 0x03808
  | .tdh => 0x03810
  | .tdt => 0x03818
  | .rxcsum => 0x05000

/-- `rmask(<NAME>)` (10_state.md R10). -/
def Reg.rmask : Reg → Word
  | .itr => 0x0000FFFF#32
  | .ics => 0x00000000#32
  | .imc => 0x00000000#32
  | .rdh => 0x0000FFFF#32
  | .rdt => 0x0000FFFF#32
  | .tdh => 0x0000FFFF#32
  | .tdt => 0x0000FFFF#32
  | .rxcsum => 0x000003FF#32
  | .ctrl | .status | .eerd | .mdic | .icr | .ims | .rctl | .tctl | .rdbal | .rdbah | .rdlen | .tdbal | .tdbah
  | .tdlen => 0xFFFFFFFF#32

/-- `wmask(<NAME>)` (10_state.md R10). -/
def Reg.wmask : Reg → Word
  | .ctrl => 0xFBFFFFFF#32
  | .status => 0x00000000#32
  | .eerd => 0x0000FF00#32
  | .mdic => 0x2FFFFFFF#32
  | .icr => 0x00000000#32
  | .itr => 0x0000FFFF#32
  | .ics => 0x00000000#32
  | .ims => 0x00000000#32
  | .imc => 0x00000000#32
  | .rctl => 0xFFFFFFFF#32
  | .tctl => 0xFFFFFFFF#32
  | .rdbal => 0xFFFFFFF0#32
  | .rdbah => 0xFFFFFFFF#32
  | .rdlen => 0x000FFFF0#32
  | .rdh => 0x00000000#32
  | .rdt => 0x0000FFFF#32
  | .tdbal => 0xFFFFFFF0#32
  | .tdbah => 0xFFFFFFFF#32
  | .tdlen => 0x000FFFF0#32
  | .tdh => 0x00000000#32
  | .tdt => 0x0000FFFF#32
  | .rxcsum => 0x000003FF#32

/-- The bits of `R.<NAME>` that may differ from their reset value (10_state.md R11): those in `wmask` and those the
register's own hook or an engine writes (10_state.md R12, R18 to R24, R30). -/
def Reg.liveMask : Reg → Word
  | .ctrl => 0xFBFFFFFF#32
  | .status => 0x00000000#32
  | .eerd => 0x0000FF10#32
  | .mdic => 0x7FFFFFFF#32
  | .icr => 0xFFFFFFFF#32
  | .itr => 0x0000FFFF#32
  | .ics => 0x00000000#32
  | .ims => 0xFFFFFFFF#32
  | .imc => 0x00000000#32
  | .rctl => 0xFFFFFFFF#32
  | .tctl => 0xFFFFFFFF#32
  | .rdbal => 0xFFFFFFF0#32
  | .rdbah => 0xFFFFFFFF#32
  | .rdlen => 0x000FFFF0#32
  | .rdh => 0x0000FFFF#32
  | .rdt => 0x0000FFFF#32
  | .tdbal => 0xFFFFFFF0#32
  | .tdbah => 0xFFFFFFFF#32
  | .tdlen => 0x000FFFF0#32
  | .tdh => 0x0000FFFF#32
  | .tdt => 0x0000FFFF#32
  | .rxcsum => 0x000003FF#32

/-- The reset value of a register (10_state.md R10). -/
def Reg.resetValue : Reg → Word
  | .status => 0x00000083#32
  | .ctrl | .eerd | .mdic | .icr | .itr | .ics | .ims | .imc | .rctl | .tctl | .rdbal | .rdbah | .rdlen | .rdh | .rdt
  | .tdbal | .tdbah | .tdlen | .tdh | .tdt | .rxcsum => 0x00000000#32

/-- The register a dword offset selects, if any (30_encoding.md R95). -/
def regAt (a : Nat) : Option Reg := Reg.all.find? (fun r => r.offset == a)

/-- `CheckAccess(off, width)`: the first failing check, or none (40_dispatcher.md R131). -/
def checkAccess (off width : Nat) : Option AccessCause :=
  if ¬(width = 1 ∨ width = 2 ∨ width = 4 ∨ width = 8) then some .badWidth
  else if Config.mmioSize < off + width then some .outOfRange
  else if off % width ≠ 0 then some .misaligned
  else none

end Sys2Proof
end

