-- ==== Sys2Proof/WellFormed.lean ====
section
/-! DEFINITION. Which operations an encoding can stand for: the checks of 30_encoding.md on the operands of `Instr`. -/

namespace Sys2Proof

/-- A dword write's operands are those of some access (30_encoding.md R92, R93): the byte enables are those of a legal
width and lane, and the value's disabled lanes are zero. -/
def wfWrite (wv : Word) (be : BitVec 4) : Bool :=
  (laneOf be).isSome && (wv &&& ~~~(byteMask be) == 0#32)

/-- A dword offset is unmapped (40_dispatcher.md R136): 4-byte aligned, inside the region and no register's. -/
def wfUnmapped (a : BitVec 24) : Bool :=
  a.toNat % 4 == 0 && decide (a.toNat + 4 ≤ Config.mmioSize) && (regAt a.toNat).isNone

/-- A reserved MDI command (43_eeprom_mdic.md R223). -/
def wfMdiReserved (op : BitVec 2) (phyadd : BitVec 5) : Bool :=
  op == 0b00#2 || op == 0b11#2 || phyadd != Config.phyAddr

/-- The operation is one that its encoding can stand for. -/
def Instr.wf : Instr → Bool
  | .rdCtrl | .rdStatus | .rdEerd | .rdMdic | .rdIcr | .rdItr | .rdIcs | .rdIms | .rdImc | .rdRctl | .rdTctl
  | .rdRdbal | .rdRdbah | .rdRdlen | .rdRdh | .rdRdt | .rdTdbal | .rdTdbah | .rdTdlen | .rdTdh | .rdTdt
  | .rdRxcsum => true
  | .wrCtrl wv be | .wrStatus wv be | .wrEerd wv be | .wrMdic wv be | .wrIcr wv be | .wrItr wv be | .wrIcs wv be
  | .wrIms wv be | .wrImc wv be | .wrRctl wv be | .wrTctl wv be | .wrRdbal wv be | .wrRdbah wv be | .wrRdlen wv be
  | .wrRdh wv be | .wrRdt wv be | .wrTdbal wv be | .wrTdbah wv be | .wrTdlen wv be | .wrTdh wv be | .wrTdt wv be
  | .wrRxcsum wv be => wfWrite wv be
  | .rdUnmapped a => wfUnmapped a
  | .wrUnmapped a wv be => wfUnmapped a && wfWrite wv be
  | .accessFault c acc => checkAccess acc.off acc.width == some c
  | .mdicRead _ | .mdicWrite _ => true
  | .mdicReserved op phyadd _ => wfMdiReserved op phyadd
  | .eerdStart _ _ => true
  | .txdLegacy _ | .txdContext _ | .txdData _ => true
  | .txdReserved d => decide (2 ≤ d.dtyp.toNat)
  | .rxd _ => true
  | .rxFrame _ | .timerTick | .resetPoweron => true

end Sys2Proof
end

