-- ==== Sys2Proof/Decode.lean ====
section
/-! DEFINITION. The decoder, total on every wire and rejecting by name, and after it the encoder (30_encoding.md). -/

namespace Sys2Proof

/-- The format of what stands on a wire (30_encoding.md R110). -/
def Wire.format : Wire → Format
  | .access _ => .access
  | .aw _ _ => .dwop
  | .mdicmd _ => .mdicmd
  | .eecmd _ => .eecmd
  | .txdesc _ => .txdesc128
  | .rxdesc _ => .rxdesc128
  | .frame _ | .tick | .powerOn => .event

/-- The format column of spec/opcode_table.json. -/
def Instr.format : Instr → Format
  | .rdCtrl | .rdStatus | .rdEerd | .rdMdic | .rdIcr | .rdItr | .rdIcs | .rdIms | .rdImc | .rdRctl | .rdTctl
  | .rdRdbal | .rdRdbah | .rdRdlen | .rdRdh | .rdRdt | .rdTdbal | .rdTdbah | .rdTdlen | .rdTdh | .rdTdt
  | .rdRxcsum => .dwop
  | .wrCtrl _ _ | .wrStatus _ _ | .wrEerd _ _ | .wrMdic _ _ | .wrIcr _ _ | .wrItr _ _ | .wrIcs _ _ | .wrIms _ _
  | .wrImc _ _ | .wrRctl _ _ | .wrTctl _ _ | .wrRdbal _ _ | .wrRdbah _ _ | .wrRdlen _ _ | .wrRdh _ _ | .wrRdt _ _
  | .wrTdbal _ _ | .wrTdbah _ _ | .wrTdlen _ _ | .wrTdh _ _ | .wrTdt _ _ | .wrRxcsum _ _ => .dwop
  | .rdUnmapped _ | .wrUnmapped _ _ _ => .dwop
  | .accessFault _ _ => .access
  | .mdicRead _ | .mdicWrite _ | .mdicReserved _ _ _ => .mdicmd
  | .eerdStart _ _ => .eecmd
  | .txdLegacy _ | .txdContext _ | .txdData _ | .txdReserved _ => .txdesc128
  | .rxd _ => .rxdesc128
  | .rxFrame _ | .timerTick | .resetPoweron => .event

/-- Why bits are no operation of the block. -/
inductive DecodeError where
  /-- Bits 30:26 of an access word must be 0 (30_encoding.md R90). -/
  | reservedBits
  /-- The value written to EERD has START = 0: it starts no read (43_eeprom_mdic.md R211). -/
  | notStart
  /-- A descriptor is exactly 16 bytes (30_encoding.md R98). -/
  | badLength
deriving DecidableEq, Repr

/-! ### Accesses -/

/-- The width in bytes that SZ stands for (30_encoding.md R90, R91). -/
def widthOfSz (sz : BitVec 2) : Nat := 2 ^ sz.toNat

/-- The access an access word stands for (30_encoding.md R90). -/
def accessOfWord (w : Word) (wdata : BitVec 64) : Except DecodeError Access :=
  if w.extractLsb' 26 5 = 0#5 then
    .ok { dir := if w.getLsbD 31 then .write else .read
          off := (w.extractLsb' 0 24).toNat
          width := widthOfSz (w.extractLsb' 24 2)
          wdata := wdata }
  else .error .reservedBits

/-- A dword operation `(a, wv, be)` (30_encoding.md R92). -/
structure DwordOp where
  a : Nat
  wv : Word
  be : BitVec 4
deriving DecidableEq, Repr

/-- Normalisation of a legal access into its dword operations, in order (30_encoding.md R92). -/
def normalise (acc : Access) : List DwordOp :=
  let l := acc.off % 4
  if acc.width = 1 then [⟨acc.off - l, ((acc.wdata.setWidth 8).setWidth 32) <<< (8 * l), 0b0001#4 <<< l⟩]
  else if acc.width = 2 then [⟨acc.off - l, ((acc.wdata.setWidth 16).setWidth 32) <<< (8 * l), 0b0011#4 <<< l⟩]
  else if acc.width = 4 then [⟨acc.off, acc.wdata.extractLsb' 0 32, 0b1111#4⟩]
  else [⟨acc.off, acc.wdata.extractLsb' 0 32, 0b1111#4⟩, ⟨acc.off + 4, acc.wdata.extractLsb' 32 32, 0b1111#4⟩]

/-- `RD.<NAME>` (41_control_regs.md, 42_interrupt_regs.md, 43_eeprom_mdic.md). -/
def rdInstr : Reg → Instr
  | .ctrl => .rdCtrl
  | .status => .rdStatus
  | .eerd => .rdEerd
  | .mdic => .rdMdic
  | .icr => .rdIcr
  | .itr => .rdItr
  | .ics => .rdIcs
  | .ims => .rdIms
  | .imc => .rdImc
  | .rctl => .rdRctl
  | .tctl => .rdTctl
  | .rdbal => .rdRdbal
  | .rdbah => .rdRdbah
  | .rdlen => .rdRdlen
  | .rdh => .rdRdh
  | .rdt => .rdRdt
  | .tdbal => .rdTdbal
  | .tdbah => .rdTdbah
  | .tdlen => .rdTdlen
  | .tdh => .rdTdh
  | .tdt => .rdTdt
  | .rxcsum => .rdRxcsum

/-- `WR.<NAME>` with the written value and the byte enables. -/
def wrInstr (wv : Word) (be : BitVec 4) : Reg → Instr
  | .ctrl => .wrCtrl wv be
  | .status => .wrStatus wv be
  | .eerd => .wrEerd wv be
  | .mdic => .wrMdic wv be
  | .icr => .wrIcr wv be
  | .itr => .wrItr wv be
  | .ics => .wrIcs wv be
  | .ims => .wrIms wv be
  | .imc => .wrImc wv be
  | .rctl => .wrRctl wv be
  | .tctl => .wrTctl wv be
  | .rdbal => .wrRdbal wv be
  | .rdbah => .wrRdbah wv be
  | .rdlen => .wrRdlen wv be
  | .rdh => .wrRdh wv be
  | .rdt => .wrRdt wv be
  | .tdbal => .wrTdbal wv be
  | .tdbah => .wrTdbah wv be
  | .tdlen => .wrTdlen wv be
  | .tdh => .wrTdh wv be
  | .tdt => .wrTdt wv be
  | .rxcsum => .wrRxcsum wv be

/-- The operation of one dword operation, by direction and offset (30_encoding.md R95, 40_dispatcher.md R133, R134,
R136). -/
def dwordInstr (dir : Dir) (o : DwordOp) : Instr :=
  match regAt o.a, dir with
  | some r, .read => rdInstr r
  | some r, .write => wrInstr o.wv o.be r
  | none, .read => .rdUnmapped (BitVec.ofNat 24 o.a)
  | none, .write => .wrUnmapped (BitVec.ofNat 24 o.a) o.wv o.be

/-- The operations of an access, in order: the one fault, or its dword operations (40_dispatcher.md R130). -/
def decodeAccess (acc : Access) : List Instr :=
  match checkAccess acc.off acc.width with
  | some c => [.accessFault c acc]
  | none => (normalise acc).map (dwordInstr acc.dir)

/-! ### Commands and descriptors -/

/-- The command in a value of MDIC (10_state.md R19, 43_eeprom_mdic.md R221). R, E and bit 31 are no part of it. -/
def decodeMdi (w : Word) : MdiCmd :=
  let c : MdiFields := { i := w.getLsbD 29, regadd := w.extractLsb' 16 5, data := w.extractLsb' 0 16 }
  let op := w.extractLsb' 26 2
  let pa := w.extractLsb' 21 5
  if pa ≠ Config.phyAddr then .reserved op pa c
  else if op = 0b10#2 then .read c
  else if op = 0b01#2 then .write c
  else .reserved op pa c

/-- The descriptor integer `D` of 16 bytes (30_encoding.md R99). -/
def descInt (bytes : List Byte) : BitVec 128 := BitVec.ofNat 128 (leNat bytes)

/-- Descriptor kind decode and the layouts (30_encoding.md R99, R100, R101, R103, R104). -/
def decodeTxd (D : BitVec 128) : TxDesc :=
  if D.getLsbD 93 then
    if D.extractLsb' 84 4 = 0#4 then
      .context
        { ipcss := D.extractLsb' 0 8, ipcso := D.extractLsb' 8 8, ipcse := D.extractLsb' 16 16
          tucss := D.extractLsb' 32 8, tucso := D.extractLsb' 40 8, tucse := D.extractLsb' 48 16
          paylen := D.extractLsb' 64 20
          tcp := D.getLsbD 88, ip := D.getLsbD 89, tse := D.getLsbD 90, rs := D.getLsbD 91
          rsv4 := D.getLsbD 92, rsv6 := D.getLsbD 94, ide := D.getLsbD 95
          sta := D.extractLsb' 96 4, rsv := D.extractLsb' 100 4
          hdrlen := D.extractLsb' 104 8, mss := D.extractLsb' 112 16 }
    else if D.extractLsb' 84 4 = 1#4 then
      .data
        { addr := D.extractLsb' 0 64, dtalen := D.extractLsb' 64 20
          eop := D.getLsbD 88, ifcs := D.getLsbD 89, tse := D.getLsbD 90, rs := D.getLsbD 91
          rps := D.getLsbD 92, vle := D.getLsbD 94, ide := D.getLsbD 95
          sta := D.extractLsb' 96 4, rsv := D.extractLsb' 100 4
          popts := D.extractLsb' 104 8, special := D.extractLsb' 112 16 }
    else
      .reserved
        { low := D.extractLsb' 0 84, dtyp := D.extractLsb' 84 4
          eop := D.getLsbD 88, b1 := D.getLsbD 89, b2 := D.getLsbD 90, rs := D.getLsbD 91
          b4 := D.getLsbD 92, b6 := D.getLsbD 94, b7 := D.getLsbD 95
          sta := D.extractLsb' 96 4, rsv := D.extractLsb' 100 4, high := D.extractLsb' 104 24 }
  else
    .legacy
      { addr := D.extractLsb' 0 64, length := D.extractLsb' 64 16, cso := D.extractLsb' 80 8
        eop := D.getLsbD 88, ifcs := D.getLsbD 89, ic := D.getLsbD 90, rs := D.getLsbD 91
        rps := D.getLsbD 92, vle := D.getLsbD 94, ide := D.getLsbD 95
        sta := D.extractLsb' 96 4, rsv := D.extractLsb' 100 4
        css := D.extractLsb' 104 8, special := D.extractLsb' 112 16 }

/-- The receive descriptor layout (30_encoding.md R106). -/
def decodeRxd (D : BitVec 128) : RxDesc :=
  { addr := D.extractLsb' 0 64, length := D.extractLsb' 64 16, csum := D.extractLsb' 80 16
    status := D.extractLsb' 96 8, errors := D.extractLsb' 104 8, special := D.extractLsb' 112 16 }

/-- The operation of an MDI command. -/
def mdiInstr : MdiCmd → Instr
  | .read c => .mdicRead c
  | .write c => .mdicWrite c
  | .reserved op pa c => .mdicReserved op pa c

/-- The operation of a transmit descriptor. -/
def txdInstr : TxDesc → Instr
  | .legacy d => .txdLegacy d
  | .context d => .txdContext d
  | .data d => .txdData d
  | .reserved d => .txdReserved d

/-! ### The whole decoder -/

/-- The operations that what stands on a wire is: one, but for an 8-byte access, which is two dword operations. -/
def decode : Wire → Except DecodeError (List Instr)
  | .access acc => .ok (decodeAccess acc)
  | .aw w wdata => (accessOfWord w wdata).map decodeAccess
  | .mdicmd w => .ok [mdiInstr (decodeMdi w)]
  | .eecmd w => if w.getLsbD 0 then .ok [.eerdStart (w.extractLsb' 8 8) (w.extractLsb' 16 16)] else .error .notStart
  | .txdesc bs => if bs.length = Config.descSize then .ok [txdInstr (decodeTxd (descInt bs))] else .error .badLength
  | .rxdesc bs => if bs.length = Config.descSize then .ok [.rxd (decodeRxd (descInt bs))] else .error .badLength
  | .frame bs => .ok [.rxFrame bs]
  | .tick => .ok [.timerTick]
  | .powerOn => .ok [.resetPoweron]

/-- The wire an agent's operation arrives on (00_scope.md R7). -/
def Operation.wire : Operation → Wire
  | .access acc => .access acc
  | .rxFrame f => .frame f
  | .tick => .tick
  | .powerOn => .powerOn

/-- The operations of the table that an agent's operation runs, in order. -/
def decodeOperation (o : Operation) : List Instr :=
  match decode o.wire with
  | .ok is => is
  | .error _ => []

/-- The wire of the bits of a row of spec/opcode_table.json (log entry 2). The table numbers each format's bits from 0. Up to
8 bits are an EEPROM command, of which the row has one bit, START; its `match` value 1 is that command in 32 bits as well.
More than 32 are a transmit descriptor. The others are an access word or an MDI command, which the bits 30:26 tell apart: an
access word has zeros there and the two commands the table gives bits have OP there. -/
def wireOfTable (nbits w : Nat) : Wire :=
  let lo : Word := BitVec.ofNat 32 w
  if nbits ≤ 8 then .eecmd lo
  else if 32 < nbits then .txdesc (leBytes Config.descSize w)
  else if lo = 1#32 then .eecmd lo
  else if lo.extractLsb' 26 5 = 0#5 then .aw lo 0#64
  else .mdicmd lo

/-- The instruction the decoder reads from the bits of a table row; of an 8-byte access, its first dword operation. -/
def decodeTableWord (nbits w : Nat) : Option Instr :=
  match decode (wireOfTable nbits w) with
  | .ok (i :: _) => some i
  | .ok [] => none
  | .error _ => none

/-! ### The encoder -/

/-- The bit of a flag. -/
def flagBit (b : Bool) : BitVec 1 := BitVec.ofBool b

/-- The access word of a direction, a size and an offset (30_encoding.md R90). -/
def accessWord (dir : Dir) (sz : BitVec 2) (off : BitVec 24) : Word :=
  flagBit (dir == .write) ++ 0#5 ++ sz ++ off

/-- A dword read of an offset, as the 4-byte read. -/
def encodeRead (off : Nat) : Wire := .aw (accessWord .read 2#2 (BitVec.ofNat 24 off)) 0#64

/-- A dword write, as the access of at most 4 bytes that normalises to it (30_encoding.md R92). -/
def encodeWrite (off : Nat) (wv : Word) (be : BitVec 4) : Wire :=
  match laneOf be with
  | some (1, l) => .aw (accessWord .write 0#2 (BitVec.ofNat 24 (off + l))) ((wv >>> (8 * l)).setWidth 64)
  | some (2, l) => .aw (accessWord .write 1#2 (BitVec.ofNat 24 (off + l))) ((wv >>> (8 * l)).setWidth 64)
  | _ => .aw (accessWord .write 2#2 (BitVec.ofNat 24 off)) (wv.setWidth 64)

/-- An MDI command as the value of MDIC, with R and E zero (10_state.md R19). -/
def encodeMdi (op : BitVec 2) (phyadd : BitVec 5) (c : MdiFields) : Word :=
  0#2 ++ flagBit c.i ++ 0#1 ++ op ++ phyadd ++ c.regadd ++ c.data

/-- A command byte from its bits, 7 first. -/
def cmdByte (b7 b6 b5 b4 b3 b2 b1 b0 : Bool) : Byte :=
  flagBit b7 ++ flagBit b6 ++ flagBit b5 ++ flagBit b4 ++ flagBit b3 ++ flagBit b2 ++ flagBit b1 ++ flagBit b0

/-- The descriptor integer of a transmit descriptor (30_encoding.md R100, R101, R103, R104). -/
def encodeTxd : TxDesc → BitVec 128
  | .legacy d =>
    d.special ++ d.css ++ d.rsv ++ d.sta ++ cmdByte d.ide d.vle false d.rps d.rs d.ic d.ifcs d.eop ++ d.cso ++ d.length
      ++ d.addr
  | .context d =>
    d.mss ++ d.hdrlen ++ d.rsv ++ d.sta ++ cmdByte d.ide d.rsv6 true d.rsv4 d.rs d.tse d.ip d.tcp ++ 0#4 ++ d.paylen
      ++ d.tucse ++ d.tucso ++ d.tucss ++ d.ipcse ++ d.ipcso ++ d.ipcss
  | .data d =>
    d.special ++ d.popts ++ d.rsv ++ d.sta ++ cmdByte d.ide d.vle true d.rps d.rs d.tse d.ifcs d.eop ++ 1#4 ++ d.dtalen
      ++ d.addr
  | .reserved d =>
    d.high ++ d.rsv ++ d.sta ++ cmdByte d.b7 d.b6 true d.b4 d.rs d.b2 d.b1 d.eop ++ d.dtyp ++ d.low

/-- The descriptor integer of a receive descriptor (30_encoding.md R106). -/
def encodeRxd (d : RxDesc) : BitVec 128 := d.special ++ d.errors ++ d.status ++ d.csum ++ d.length ++ d.addr

/-- The 16 bytes of a descriptor integer. -/
def descBytes (D : BitVec 128) : List Byte := leBytes Config.descSize D.toNat

/-- The wire of an operation: what `decode` reads back as it. -/
def encode : Instr → Wire
  | .rdCtrl => encodeRead (Reg.offset .ctrl)
  | .rdStatus => encodeRead (Reg.offset .status)
  | .rdEerd => encodeRead (Reg.offset .eerd)
  | .rdMdic => encodeRead (Reg.offset .mdic)
  | .rdIcr => encodeRead (Reg.offset .icr)
  | .rdItr => encodeRead (Reg.offset .itr)
  | .rdIcs => encodeRead (Reg.offset .ics)
  | .rdIms => encodeRead (Reg.offset .ims)
  | .rdImc => encodeRead (Reg.offset .imc)
  | .rdRctl => encodeRead (Reg.offset .rctl)
  | .rdTctl => encodeRead (Reg.offset .tctl)
  | .rdRdbal => encodeRead (Reg.offset .rdbal)
  | .rdRdbah => encodeRead (Reg.offset .rdbah)
  | .rdRdlen => encodeRead (Reg.offset .rdlen)
  | .rdRdh => encodeRead (Reg.offset .rdh)
  | .rdRdt => encodeRead (Reg.offset .rdt)
  | .rdTdbal => encodeRead (Reg.offset .tdbal)
  | .rdTdbah => encodeRead (Reg.offset .tdbah)
  | .rdTdlen => encodeRead (Reg.offset .tdlen)
  | .rdTdh => encodeRead (Reg.offset .tdh)
  | .rdTdt => encodeRead (Reg.offset .tdt)
  | .rdRxcsum => encodeRead (Reg.offset .rxcsum)
  | .wrCtrl wv be => encodeWrite (Reg.offset .ctrl) wv be
  | .wrStatus wv be => encodeWrite (Reg.offset .status) wv be
  | .wrEerd wv be => encodeWrite (Reg.offset .eerd) wv be
  | .wrMdic wv be => encodeWrite (Reg.offset .mdic) wv be
  | .wrIcr wv be => encodeWrite (Reg.offset .icr) wv be
  | .wrItr wv be => encodeWrite (Reg.offset .itr) wv be
  | .wrIcs wv be => encodeWrite (Reg.offset .ics) wv be
  | .wrIms wv be => encodeWrite (Reg.offset .ims) wv be
  | .wrImc wv be => encodeWrite (Reg.offset .imc) wv be
  | .wrRctl wv be => encodeWrite (Reg.offset .rctl) wv be
  | .wrTctl wv be => encodeWrite (Reg.offset .tctl) wv be
  | .wrRdbal wv be => encodeWrite (Reg.offset .rdbal) wv be
  | .wrRdbah wv be => encodeWrite (Reg.offset .rdbah) wv be
  | .wrRdlen wv be => encodeWrite (Reg.offset .rdlen) wv be
  | .wrRdh wv be => encodeWrite (Reg.offset .rdh) wv be
  | .wrRdt wv be => encodeWrite (Reg.offset .rdt) wv be
  | .wrTdbal wv be => encodeWrite (Reg.offset .tdbal) wv be
  | .wrTdbah wv be => encodeWrite (Reg.offset .tdbah) wv be
  | .wrTdlen wv be => encodeWrite (Reg.offset .tdlen) wv be
  | .wrTdh wv be => encodeWrite (Reg.offset .tdh) wv be
  | .wrTdt wv be => encodeWrite (Reg.offset .tdt) wv be
  | .wrRxcsum wv be => encodeWrite (Reg.offset .rxcsum) wv be
  | .rdUnmapped a => encodeRead a.toNat
  | .wrUnmapped a wv be => encodeWrite a.toNat wv be
  | .accessFault _ acc => .access acc
  | .mdicRead c => .mdicmd (encodeMdi 0b10#2 Config.phyAddr c)
  | .mdicWrite c => .mdicmd (encodeMdi 0b01#2 Config.phyAddr c)
  | .mdicReserved op phyadd c => .mdicmd (encodeMdi op phyadd c)
  | .eerdStart adr data => .eecmd (data ++ adr ++ 0x01#8)
  | .txdLegacy d => .txdesc (descBytes (encodeTxd (.legacy d)))
  | .txdContext d => .txdesc (descBytes (encodeTxd (.context d)))
  | .txdData d => .txdesc (descBytes (encodeTxd (.data d)))
  | .txdReserved d => .txdesc (descBytes (encodeTxd (.reserved d)))
  | .rxd d => .rxdesc (descBytes (encodeRxd d))
  | .rxFrame f => .frame f
  | .timerTick => .tick
  | .resetPoweron => .powerOn

end Sys2Proof
end

