-- ==== Sys2Proof/Machine/State.lean ====
section
/-! DEFINITION. The state of the block as plain data (10_state.md), the reasons a step can stop, and the state after reset
(10_state.md R50). -/

namespace Sys2Proof.Machine

/-- Why the machine stops with a fault. Every fault of the spec is absorbed by the operation that meets it and is an event
in `State.out` (60_exceptions.md R331 to R336), so no meaning answers with one. -/
inductive Fault where
  /-- A transport-level failure (60_exceptions.md R336, 93_implementation_defined.md U24), outside the block and not
  modelled. Raised by nothing; safe. -/
  | transportFailure
deriving DecidableEq, Repr

/-- Why an instruction has no meaning here. -/
inductive Refusal where
  /-- Raised by an arm of `exec` for an instruction that has no meaning yet; safe. No arm is left that does. -/
  | notModelled (mnemonic : String)
deriving DecidableEq, Repr

/-- The sub-causes of DmaFault (60_exceptions.md R330). -/
inductive DmaCause where
  | txDescFetch
  | txBuffer
  | txWriteback
  | rxDescFetch
  | rxBuffer
  | rxWriteback
  | txFrameOverflow
deriving DecidableEq, Repr

/-- The sub-causes of OffloadError (60_exceptions.md R330). -/
inductive OffloadCause where
  | txOffload
  | txReservedKind
deriving DecidableEq, Repr

/-- A fault of the block, as `raise` emits it (60_exceptions.md R330, R331); `FaultEvent.info` is the pair of numbers it
stands for. -/
inductive FaultEvent where
  | access (c : AccessCause)
  | dma (c : DmaCause)
  | offload (c : OffloadCause)
  | ringOverrun
deriving DecidableEq, Repr

/-- What the block puts on its ports, in the order of 20_memory.md R74 (00_scope.md R7; log entry 10). -/
inductive PortEvent where
  /-- The response `(rdata, fault)` on `MMIO`; the bits of `rdata` above the access's width are 0. -/
  | response (rdata : BitVec 64) (fault : Bool)
  /-- `MemRead(addr, n)` on `DMA`, and whether it returned bytes (not DmaFault). -/
  | memRead (addr : Addr) (n : Nat) (ok : Bool)
  /-- `MemWrite(addr, n, v)` on `DMA`, and whether it returned ok (not DmaFault). -/
  | memWrite (addr : Addr) (bytes : List Byte) (ok : Bool)
  /-- `Send(frame)` on `PKT_TX`. -/
  | send (frame : List Byte)
  /-- A change of the `INT` line: `true` is `raise_interrupt()`, `false` is `lower_interrupt()`. -/
  | irq (level : Bool)
  /-- `raise <Fault>(info)` (60_exceptions.md R331). -/
  | raised (f : FaultEvent)
deriving DecidableEq, Repr

/-- What the transport does not map (20_memory.md R70): every range that touches a byte of the hole, or, where `exact` is
true, only the range that is the hole itself (log entry 4). -/
structure Hole where
  base : Nat
  size : Nat
  exact : Bool
deriving DecidableEq, Repr

/-- What comes next in the schedule: an operation of an agent (60_exceptions.md R361), or a move of the environment between
operations: the guest stores a byte of its memory, or the transport's mapping becomes another (log entries 1, 3, 4). -/
inductive Input where
  | op (o : Operation)
  | guestStore (addr : Addr) (value : Byte)
  | remap (holes : List Hole)
deriving DecidableEq, Repr

/-- The stored registers of 10_state.md R10. STATUS is a constant (R17); ICS and IMC have no stored value (R22, R24). -/
structure RegFile where
  ctrl : Word
  eerd : Word
  mdic : Word
  icr : Word
  itr : Word
  ims : Word
  rctl : Word
  tctl : Word
  rdbal : Word
  rdbah : Word
  rdlen : Word
  rdh : Word
  rdt : Word
  tdbal : Word
  tdbah : Word
  tdlen : Word
  tdh : Word
  tdt : Word
  rxcsum : Word
deriving DecidableEq, Repr

/-- The stored registers after reset (10_state.md R10, R50). -/
def RegFile.reset : RegFile :=
  { ctrl := Reg.ctrl.resetValue, eerd := Reg.eerd.resetValue, mdic := Reg.mdic.resetValue, icr := Reg.icr.resetValue
    itr := Reg.itr.resetValue, ims := Reg.ims.resetValue, rctl := Reg.rctl.resetValue, tctl := Reg.tctl.resetValue
    rdbal := Reg.rdbal.resetValue, rdbah := Reg.rdbah.resetValue, rdlen := Reg.rdlen.resetValue
    rdh := Reg.rdh.resetValue, rdt := Reg.rdt.resetValue, tdbal := Reg.tdbal.resetValue
    tdbah := Reg.tdbah.resetValue, tdlen := Reg.tdlen.resetValue, tdh := Reg.tdh.resetValue
    tdt := Reg.tdt.resetValue, rxcsum := Reg.rxcsum.resetValue }

/-- The transmit offload context (10_state.md R42). R42's sentence gives it 112 bits and its table twelve fields of 111 bits
together: DESIGN CHOICE, safe, the twelve fields are held and no bit beside them (log entry 16). -/
structure TxCtx where
  ipcss : Byte
  ipcso : Byte
  ipcse : BitVec 16
  tucss : Byte
  tucso : Byte
  tucse : BitVec 16
  paylen : BitVec 20
  hdrlen : Byte
  mss : BitVec 16
  tcp : Bool
  ip4 : Bool
  ctse : Bool
deriving DecidableEq, Repr

/-- The context after reset: every field 0 (10_state.md R42). -/
def TxCtx.reset : TxCtx :=
  { ipcss := 0, ipcso := 0, ipcse := 0, tucss := 0, tucso := 0, tucse := 0, paylen := 0, hdrlen := 0, mss := 0
    tcp := false, ip4 := false, ctse := false }

/-- The kind of a packet's first buffer descriptor (44_transmit.md R251); RESERVED counts as LEGACY. -/
inductive TxKind where
  | legacy
  | data
deriving DecidableEq, Repr

/-- The transmit assembly state `st` of a drain (10_state.md R43, 44_transmit.md R241). -/
structure TxAsm where
  asm : List Byte
  poison : Bool
  firstKind : Option TxKind
  pktTse : Bool
  pktPopts : Byte
  wantIrq : Bool
deriving DecidableEq, Repr

/-- `st` as every drain starts with it, and as it stands between operations (44_transmit.md R241, R261). -/
def TxAsm.fresh : TxAsm :=
  { asm := [], poison := false, firstKind := none, pktTse := false, pktPopts := 0, wantIrq := false }

/-- What `RxChecksum` answers: status bits, error bits and the packet checksum (46_receive.md R314). -/
structure RxCsum where
  status : Byte
  errors : Byte
  csum : BitVec 16
deriving DecidableEq, Repr

/-- A receive fill in progress (46_receive.md R308): the frame, `B`, the addresses of the gathered descriptors still to be
filled, `j`, `trunc`, `cs` and `anyfail`. -/
structure RxFill where
  frame : List Byte
  bufSize : Nat
  pending : List Addr
  index : Nat
  trunc : Bool
  cs : RxCsum
  anyfail : Bool
deriving DecidableEq, Repr

/-- The response of an access in progress (40_dispatcher.md R130): the values its dword reads yielded, in order, and
whether it is an AccessFault. -/
structure Bus where
  reads : List Word
  fault : Bool
deriving DecidableEq, Repr

/-- No access in progress. -/
def Bus.idle : Bus := { reads := [], fault := false }

/-- `MAC_ADDR`: `b0` is the byte that is first on the wire (00_scope.md R5; log entry 5). -/
structure Mac where
  b0 : Byte
  b1 : Byte
  b2 : Byte
  b3 : Byte
  b4 : Byte
  b5 : Byte
deriving DecidableEq, Repr

/-- The state of the block and of its environment. -/
structure State where
  /-- the register file (10_state.md R10) -/
  regs : RegFile
  /-- `irq_line` (10_state.md R40) -/
  irqLine : Bool
  /-- `itr_holdoff` (10_state.md R41) -/
  itrHoldoff : BitVec 16
  /-- `txctx` (10_state.md R42) -/
  txctx : TxCtx
  /-- `rx_drop_count`, which port `DBG` shows (10_state.md R44) -/
  rxDropCount : BitVec 32
  /-- `phy[0]` (10_state.md R45) -/
  phy0 : BitVec 16
  /-- within one operation: the response (40_dispatcher.md R130) -/
  bus : Bus
  /-- within one operation: the transmit assembly (10_state.md R43) -/
  tx : TxAsm
  /-- within one operation: the receive fill (46_receive.md R308) -/
  rx : Option RxFill
  /-- the parameter `MAC_ADDR` (00_scope.md R5) -/
  mac : Mac
  /-- guest memory (10_state.md R47, R48) -/
  mem : List Host.Cell
  /-- what the transport does not map (20_memory.md R70) -/
  holes : List Hole
  /-- the schedule still to come (60_exceptions.md R361) -/
  inbox : List Input
  /-- the port events so far, oldest first (20_memory.md R74) -/
  out : List PortEvent
deriving DecidableEq, Repr

/-- What a meaning answers. -/
abbrev Result := Host.Outcome State Fault Refusal

/-- The machine right after reset: every value 10_state.md R50 gives. `mac`, `mem` and `holes` are the environment's and
stand at the values of log entries 5, 3 and 4; nothing is scheduled and nothing has left the ports. -/
def State.reset : State :=
  { regs := RegFile.reset
    irqLine := false
    itrHoldoff := 0
    txctx := TxCtx.reset
    rxDropCount := 0
    phy0 := 0x1140
    bus := Bus.idle
    tx := TxAsm.fresh
    rx := none
    mac := { b0 := 0x52, b1 := 0x54, b2 := 0x00, b3 := 0x12, b4 := 0x34, b5 := 0x56 }
    mem := []
    holes := []
    inbox := []
    out := [] }

end Sys2Proof.Machine
end

