-- ==== Sys2Proof/Machine/Ops.lean ====
section
/-! DEFINITION. The named operations over registers, ports and guest memory: register read and write (10_state.md R10),
`raise` (60_exceptions.md R331), `MemRead` and `MemWrite` (20_memory.md R70 to R72). -/

namespace Sys2Proof.Machine

/-! ### Registers -/

/-- `R.<NAME>` (00_scope.md R8). STATUS is the constant 0x83 (10_state.md R17); ICS and IMC have no stored value and read 0
(10_state.md R22, R24). -/
def RegFile.get (f : RegFile) : Reg → Word
  | .ctrl => f.ctrl
  | .status => Reg.status.resetValue
  | .eerd => f.eerd
  | .mdic => f.mdic
  | .icr => f.icr
  | .itr => f.itr
  | .ics => 0#32
  | .ims => f.ims
  | .imc => 0#32
  | .rctl => f.rctl
  | .tctl => f.tctl
  | .rdbal => f.rdbal
  | .rdbah => f.rdbah
  | .rdlen => f.rdlen
  | .rdh => f.rdh
  | .rdt => f.rdt
  | .tdbal => f.tdbal
  | .tdbah => f.tdbah
  | .tdlen => f.tdlen
  | .tdh => f.tdh
  | .tdt => f.tdt
  | .rxcsum => f.rxcsum

/-- `R.<NAME> <- v` (00_scope.md R8). Nothing is stored for STATUS, ICS and IMC. -/
def RegFile.set (f : RegFile) (v : Word) : Reg → RegFile
  | .ctrl => { f with ctrl := v }
  | .status => f
  | .eerd => { f with eerd := v }
  | .mdic => { f with mdic := v }
  | .icr => { f with icr := v }
  | .itr => { f with itr := v }
  | .ics => f
  | .ims => { f with ims := v }
  | .imc => f
  | .rctl => { f with rctl := v }
  | .tctl => { f with tctl := v }
  | .rdbal => { f with rdbal := v }
  | .rdbah => { f with rdbah := v }
  | .rdlen => { f with rdlen := v }
  | .rdh => { f with rdh := v }
  | .rdt => { f with rdt := v }
  | .tdbal => { f with tdbal := v }
  | .tdbah => { f with tdbah := v }
  | .tdlen => { f with tdlen := v }
  | .tdh => { f with tdh := v }
  | .tdt => { f with tdt := v }
  | .rxcsum => { f with rxcsum := v }

/-- `R.<NAME>` of a state. -/
def State.reg (s : State) (r : Reg) : Word := s.regs.get r

/-- `R.<NAME> <- v` on a state. -/
def State.setReg (s : State) (r : Reg) (v : Word) : State := { s with regs := s.regs.set v r }

/-! ### Ports -/

/-- The block puts one event on a port (20_memory.md R74). -/
def State.emit (s : State) (e : PortEvent) : State := { s with out := s.out ++ [e] }

/-- The number of an AccessFault's sub-cause (60_exceptions.md R330). -/
def accessCauseNumber : AccessCause → Nat
  | .badWidth => 1
  | .outOfRange => 2
  | .misaligned => 3

/-- The number of a DmaFault's sub-cause (60_exceptions.md R330). -/
def dmaCauseNumber : DmaCause → Nat
  | .txDescFetch => 1
  | .txBuffer => 2
  | .txWriteback => 3
  | .rxDescFetch => 4
  | .rxBuffer => 5
  | .rxWriteback => 6
  | .txFrameOverflow => 7

/-- The number of an OffloadError's sub-cause (60_exceptions.md R330). -/
def offloadCauseNumber : OffloadCause → Nat
  | .txOffload => 1
  | .txReservedKind => 2

/-- The pair (code, sub-cause number) that a fault event stands for (60_exceptions.md R330, R331). -/
def FaultEvent.info : FaultEvent → Nat × Nat
  | .access c => (1, accessCauseNumber c)
  | .dma c => (2, dmaCauseNumber c)
  | .offload c => (3, offloadCauseNumber c)
  | .ringOverrun => (4, 0)

/-- `raise <Fault>(info)`: emits the event, which stands for its pair `FaultEvent.info`, and does nothing else; it never
transfers control (60_exceptions.md R331). -/
def raiseFault (f : FaultEvent) (s : State) : State := s.emit (.raised f)

/-! ### Guest memory -/

/-- Guest memory as its listed bytes, addresses strictly rising (log entry 3). -/
abbrev Memory := List Host.Cell

/-- What a byte that is not listed reads as. DESIGN CHOICE, unsafe (log entry 3): the spec leaves the contents of guest
memory to the guest; 95_test_vectors.md takes it as zero filled. -/
def memDefault : Byte := 0#8

/-- One byte of guest memory. -/
def Memory.read : Memory → Nat → Byte
  | [], _ => memDefault
  | (x, b) :: rest, a => if x = a then b else Memory.read rest a

/-- Stores one byte of guest memory, keeping the canonical form. -/
def Memory.write : Memory → Nat → Byte → Memory
  | [], a, v => if v = memDefault then [] else [(a, v)]
  | (x, b) :: rest, a, v =>
    if x < a then (x, b) :: Memory.write rest a v
    else if x = a then (if v = memDefault then rest else (a, v) :: rest)
    else if v = memDefault then (x, b) :: rest else (a, v) :: (x, b) :: rest

/-- The `n` bytes from an address on. -/
def Memory.readRange (m : Memory) (a : Nat) : Nat → List Byte
  | 0 => []
  | n + 1 => Memory.read m a :: Memory.readRange m (a + 1) n

/-- Stores bytes from an address on. -/
def Memory.writeRange (m : Memory) (a : Nat) : List Byte → Memory
  | [] => m
  | v :: vs => Memory.writeRange (Memory.write m a v) (a + 1) vs

/-- The canonical form: addresses strictly rising from `lo`, inside the 64-bit space, and no byte listed that reads as an
unlisted one. -/
def Memory.wfFrom : Nat → Memory → Bool
  | _, [] => true
  | lo, (x, b) :: rest => decide (lo ≤ x) && decide (x < 2 ^ 64) && (b != memDefault) && Memory.wfFrom (x + 1) rest

/-- The canonical form of guest memory. -/
def Memory.wf (m : Memory) : Bool := Memory.wfFrom 0 m

/-- The hole makes the range `[a, a + n)` unmappable. -/
def holeBlocks (a n : Nat) (h : Hole) : Bool :=
  if h.exact then a == h.base && n == h.size else decide (a < h.base + h.size) && decide (h.base < a + n)

/-- `Mappable(addr, n)`: no hole of the transport blocks the range (20_memory.md R70) and it does not pass 2^64
(20_memory.md R72). -/
def mappable (holes : List Hole) (a : Addr) (n : Nat) : Bool :=
  decide (a.toNat + n ≤ 2 ^ 64) && holes.all (fun h => !holeBlocks a.toNat n h)

/-- `MemRead(addr, n)`: the bytes in address order, or none for DmaFault (20_memory.md R70). -/
def memRead (a : Addr) (n : Nat) (s : State) : Option (List Byte) × State :=
  if mappable s.holes a n then (some (Memory.readRange s.mem a.toNat n), s.emit (.memRead a n true))
  else (none, s.emit (.memRead a n false))

/-- `MemWrite(addr, n, v)`: true for ok, false for DmaFault, which writes no byte (20_memory.md R70). -/
def memWrite (a : Addr) (v : List Byte) (s : State) : Bool × State :=
  if mappable s.holes a v.length then
    (true, ({ s with mem := Memory.writeRange s.mem a.toNat v } : State).emit (.memWrite a v true))
  else (false, s.emit (.memWrite a v false))

end Sys2Proof.Machine
end

