-- ==== Sys2Proof/Machine/Operands.lean ====
section
/-! DEFINITION. Operand assembly: the dword read value, the masked store, the read data of a response (30_encoding.md R92 to
R94, 40_dispatcher.md R133, R134) and the ring quantities (10_state.md R49, 30_encoding.md R107). -/

namespace Sys2Proof.Machine

/-! ### EEPROM content -/

/-- The words of the EEPROM before its checksum word (43_eeprom_mdic.md R216): the MAC in words 0 to 2, low byte first. -/
def eepromBody (mac : Mac) (n : Nat) : BitVec 16 :=
  if n = 0 then mac.b1 ++ mac.b0
  else if n = 1 then mac.b3 ++ mac.b2
  else if n = 2 then mac.b5 ++ mac.b4
  else 0#16

/-- The sum of words 0 to `n - 1` before the checksum word, modulo 2^16. -/
def eepromBodySum (mac : Mac) : Nat → BitVec 16
  | 0 => 0#16
  | n + 1 => eepromBodySum mac n + eepromBody mac n

/-- `EEPROM[n]` (43_eeprom_mdic.md R216): the last word makes the sum of all words `EEPROM_SUM`. -/
def eepromWord (mac : Mac) (n : Nat) : BitVec 16 :=
  if n = Config.eepromWords - 1 then
    BitVec.ofNat 16 Config.eepromSum - eepromBodySum mac (Config.eepromWords - 1)
  else eepromBody mac n

/-- `EeData(n)` (43_eeprom_mdic.md R213). -/
def eeData (mac : Mac) (n : Byte) : BitVec 16 :=
  if n.toNat < Config.eepromWords then eepromWord mac n.toNat else 0x0000#16

/-! ### Dword reads and writes -/

/-- `R.EERD.ADDR` (10_state.md R18). -/
def eerdAddr (s : State) : Byte := (s.reg .eerd).extractLsb' 8 8

/-- `ReadValue(<NAME>)` (40_dispatcher.md R133): the stored value, but for EERD, whose DATA is computed. -/
def readValue (s : State) : Reg → Word
  | .eerd => s.reg .eerd ||| ((eeData s.mac (eerdAddr s)).setWidth 32 <<< 16)
  | r => s.reg r

/-- `DwRead` of a register's offset (40_dispatcher.md R133). -/
def dwRead (s : State) (r : Reg) : Word := readValue s r &&& r.rmask

/-- A dword read yields a value to the access in progress and changes nothing else (20_memory.md R67). -/
def yieldRead (v : Word) (s : State) : State := { s with bus := { s.bus with reads := s.bus.reads ++ [v] } }

/-- The store of `DwWrite`: only the bits in `wmask` and in an enabled lane change (40_dispatcher.md R134). -/
def storeMasked (r : Reg) (wv : Word) (be : BitVec 4) (s : State) : State :=
  s.setReg r ((s.reg r &&& ~~~(r.wmask &&& byteMask be)) ||| (wv &&& r.wmask &&& byteMask be))

/-- `Assemble(rv)`: the read data of a response (30_encoding.md R94). A write yields no value, and its `rdata` is 0. -/
def assembleRead (acc : Access) (reads : List Word) : BitVec 64 :=
  let lo := reads.getD 0 0#32
  let hi := reads.getD 1 0#32
  if acc.width = 1 then ((lo >>> (8 * (acc.off % 4))).setWidth 8).setWidth 64
  else if acc.width = 2 then ((lo >>> (8 * (acc.off % 4))).setWidth 16).setWidth 64
  else if acc.width = 4 then lo.setWidth 64
  else hi ++ lo

/-! ### Rings -/

/-- `TDBA` (10_state.md R49). -/
def tdba (s : State) : Addr := s.reg .tdbah ++ s.reg .tdbal

/-- `RDBA` (10_state.md R49). -/
def rdba (s : State) : Addr := s.reg .rdbah ++ s.reg .rdbal

/-- `NT = R.TDLEN >> 4` (44_transmit.md R241). -/
def txCount (s : State) : Nat := (s.reg .tdlen >>> 4).toNat

/-- `NR = R.RDLEN >> 4` (46_receive.md R300). -/
def rxCount (s : State) : Nat := (s.reg .rdlen >>> 4).toNat

/-- `R.TDH` as an index. -/
def txHead (s : State) : Nat := (s.reg .tdh).toNat

/-- `R.TDT[15:0]` as an index. -/
def txTail (s : State) : Nat := ((s.reg .tdt).extractLsb' 0 16).toNat

/-- `R.RDH` as an index. -/
def rxHead (s : State) : Nat := (s.reg .rdh).toNat

/-- `R.RDT[15:0]`, the tail last seen, as an index (10_state.md R49). -/
def rxTail (s : State) : Nat := ((s.reg .rdt).extractLsb' 0 16).toNat

/-- `(base + 16 * index) mod 2^64` (20_memory.md R72). -/
def descAddr (base : Addr) (index : Nat) : Addr := base + BitVec.ofNat 64 (Config.descSize * index)

/-- The address of the descriptor at the transmit head (44_transmit.md R243). -/
def txDescAddr (s : State) : Addr := descAddr (tdba s) (txHead s)

/-- The address of the descriptor at the receive head (46_receive.md R306). -/
def rxDescAddr (s : State) : Addr := descAddr (rdba s) (rxHead s)

/-- `R.TDH <- (R.TDH + 1) mod NT` (44_transmit.md R260). -/
def advanceTdh (nt : Nat) (s : State) : State := s.setReg .tdh (BitVec.ofNat 32 ((txHead s + 1) % nt))

/-- `R.RDH <- (R.RDH + 1) mod NR` (46_receive.md R306). -/
def advanceRdh (nr : Nat) (s : State) : State := s.setReg .rdh (BitVec.ofNat 32 ((rxHead s + 1) % nr))

/-- The ring of `n` descriptors cannot be used: it is empty, or an index is not below its count (44_transmit.md R242,
46_receive.md R301). -/
def ringRefused (n head tail : Nat) : Bool := n == 0 || decide (n ≤ head) || decide (n ≤ tail)

end Sys2Proof.Machine
end

