-- ==== Sys2Proof/Machine/Flags.lean ====
section
/-! DEFINITION. The single-bit state elements that behave as flags (10_state.md R15): the interrupt line with its causes,
mask and holdoff (60_exceptions.md R346, R347), EERD.DONE, MDIC.R and MDIC.E. -/

namespace Sys2Proof.Machine

/-- Bit `i` of a word becomes `b`. -/
def setBit (w : Word) (i : Nat) (b : Bool) : Word :=
  if b then w ||| BitVec.twoPow 32 i else w &&& ~~~(BitVec.twoPow 32 i)

/-! ### The interrupt line -/

/-- Changes the level of port `INT` (00_scope.md R7, 10_state.md R40). -/
def setLine (level : Bool) (s : State) : State := ({ s with irqLine := level } : State).emit (.irq level)

/-- Some enabled cause is pending (60_exceptions.md R347). -/
def irqWanted (s : State) : Bool := s.reg .icr &&& s.reg .ims != 0#32

/-- `R.ITR[15:0]`, the interval a new assertion loads into the holdoff (60_exceptions.md R347, R350). -/
def itrInterval (s : State) : BitVec 16 := (s.reg .itr).extractLsb' 0 16

/-- `Evaluate()` (60_exceptions.md R347). -/
def evaluate (s : State) : State :=
  if irqWanted s then
    if s.irqLine then s
    else if s.itrHoldoff = 0#16 then { setLine true s with itrHoldoff := itrInterval s }
    else s
  else if s.irqLine then setLine false s
  else s

/-- `RaiseCause(bits)` (60_exceptions.md R346). -/
def raiseCause (bits : Word) (s : State) : State := evaluate (s.setReg .icr (s.reg .icr ||| bits))

/-- TXDW, transmit done (60_exceptions.md R340). -/
def causeTxdw : Word := 0x00000001#32

/-- RXT0, receive done (60_exceptions.md R340). -/
def causeRxt0 : Word := 0x00000080#32

/-- MDAC, MDI access complete (60_exceptions.md R340). -/
def causeMdac : Word := 0x00000200#32

/-! ### EERD.DONE -/

/-- `R.EERD.DONE <- b` (43_eeprom_mdic.md R211). -/
def setEerdDone (b : Bool) (s : State) : State := s.setReg .eerd (setBit (s.reg .eerd) 4 b)

/-! ### MDIC.R and MDIC.E -/

/-- The end of every MDI operation: `R.MDIC[30] <- err`, `R.MDIC[28] <- 1`, and MDAC if I is 1 (43_eeprom_mdic.md R221). -/
def mdiDone (err : Bool) (s : State) : State :=
  let s1 := s.setReg .mdic (setBit (setBit (s.reg .mdic) 30 err) 28 true)
  if (s1.reg .mdic).getLsbD 29 then raiseCause causeMdac s1 else s1

end Sys2Proof.Machine
end

