-- ==== Sys2Proof/Machine/Access.lean ====
section
/-! DEFINITION. The dispatcher's own operations (40_dispatcher.md): the access that fails a check and the offsets that are no
register's. -/

namespace Sys2Proof.Machine

/-- `ACCESS.FAULT` (40_dispatcher.md R131, R132): AccessFault is recorded with its sub-cause, the response will be
`(0, 1)`, and no state of the block changes. -/
def execAccessFault (cause : AccessCause) (_acc : Access) (s : State) : Result :=
  .next (raiseFault (.access cause) { s with bus := { reads := [], fault := true } })

/-- `RD.UNMAPPED`: an unmapped offset reads 0 and does not fault (40_dispatcher.md R136). -/
def execRdUnmapped (_a : BitVec 24) (s : State) : Result := .next (yieldRead 0x00000000#32 s)

/-- `WR.UNMAPPED`: a write to an unmapped offset is ignored and does not fault (40_dispatcher.md R136). -/
def execWrUnmapped (_a : BitVec 24) (_wv : Word) (_be : BitVec 4) (s : State) : Result := .next s

end Sys2Proof.Machine
end

