-- ==== Sys2Proof/Machine/Reset.lean ====
section
/-! DEFINITION. Reset (70_reset_and_hazards.md R380) and the power-on event. -/

namespace Sys2Proof.Machine

/-- `DeviceReset()` (70_reset_and_hazards.md R380): every value of 10_state.md R50, and the line is lowered if it was
high. Guest memory, the EEPROM content and frames already sent are not touched. -/
def deviceReset (s : State) : State :=
  let s1 : State :=
    { s with regs := RegFile.reset, txctx := TxCtx.reset, rxDropCount := 0#32, phy0 := 0x1140#16, itrHoldoff := 0#16 }
  if s1.irqLine then setLine false s1 else s1

/-- `RESET.POWERON`: `PowerOn()` is `DeviceReset()` (70_reset_and_hazards.md R380). -/
def execResetPoweron (s : State) : Result := .next (deviceReset s)

end Sys2Proof.Machine
end

