-- ==== Sys2Proof/Machine/Control.lean ====
section
/-! DEFINITION. Control, status and ring configuration registers (41_control_regs.md). `WR.TDT` is in Transmit.lean. -/

namespace Sys2Proof.Machine

/-- `RD.CTRL` (41_control_regs.md R150). -/
def execRdCtrl (s : State) : Result := .next (yieldRead (dwRead s .ctrl) s)

/-- `WR.CTRL` (41_control_regs.md R151): the masked store, then the reset if RST is written 1. -/
def execWrCtrl (wv : Word) (be : BitVec 4) (s : State) : Result :=
  let s1 := storeMasked .ctrl wv be s
  .next (if wv.getLsbD 26 then deviceReset s1 else s1)

/-- `RD.STATUS` (41_control_regs.md R152). -/
def execRdStatus (s : State) : Result := .next (yieldRead (dwRead s .status) s)

/-- `WR.STATUS` (41_control_regs.md R153): `wmask` is 0 and there is no hook; the write is discarded. -/
def execWrStatus (wv : Word) (be : BitVec 4) (s : State) : Result := .next (storeMasked .status wv be s)

/-- `RD.RCTL` (41_control_regs.md R154). -/
def execRdRctl (s : State) : Result := .next (yieldRead (dwRead s .rctl) s)

/-- `WR.RCTL` (41_control_regs.md R155): no hook; EN is stored and gates nothing. -/
def execWrRctl (wv : Word) (be : BitVec 4) (s : State) : Result := .next (storeMasked .rctl wv be s)

/-- `RD.TCTL` (41_control_regs.md R156). -/
def execRdTctl (s : State) : Result := .next (yieldRead (dwRead s .tctl) s)

/-- `WR.TCTL` (41_control_regs.md R157): no hook; no bit has a function. -/
def execWrTctl (wv : Word) (be : BitVec 4) (s : State) : Result := .next (storeMasked .tctl wv be s)

/-- `RD.RXCSUM` (41_control_regs.md R158). -/
def execRdRxcsum (s : State) : Result := .next (yieldRead (dwRead s .rxcsum) s)

/-- `WR.RXCSUM` (41_control_regs.md R159): no hook. -/
def execWrRxcsum (wv : Word) (be : BitVec 4) (s : State) : Result := .next (storeMasked .rxcsum wv be s)

/-- `RD.RDBAL` (41_control_regs.md R160). -/
def execRdRdbal (s : State) : Result := .next (yieldRead (dwRead s .rdbal) s)

/-- `WR.RDBAL` (41_control_regs.md R161): no hook. -/
def execWrRdbal (wv : Word) (be : BitVec 4) (s : State) : Result := .next (storeMasked .rdbal wv be s)

/-- `RD.RDBAH` (41_control_regs.md R162). -/
def execRdRdbah (s : State) : Result := .next (yieldRead (dwRead s .rdbah) s)

/-- `WR.RDBAH` (41_control_regs.md R163): no hook. -/
def execWrRdbah (wv : Word) (be : BitVec 4) (s : State) : Result := .next (storeMasked .rdbah wv be s)

/-- `RD.RDLEN` (41_control_regs.md R164). -/
def execRdRdlen (s : State) : Result := .next (yieldRead (dwRead s .rdlen) s)

/-- `WR.RDLEN` (41_control_regs.md R165): no hook. -/
def execWrRdlen (wv : Word) (be : BitVec 4) (s : State) : Result := .next (storeMasked .rdlen wv be s)

/-- `RD.RDH` (41_control_regs.md R166). -/
def execRdRdh (s : State) : Result := .next (yieldRead (dwRead s .rdh) s)

/-- `WR.RDH` (41_control_regs.md R167): `wmask` is 0: the head is hardware-owned and the write is discarded. -/
def execWrRdh (wv : Word) (be : BitVec 4) (s : State) : Result := .next (storeMasked .rdh wv be s)

/-- `RD.RDT` (41_control_regs.md R170). -/
def execRdRdt (s : State) : Result := .next (yieldRead (dwRead s .rdt) s)

/-- `WR.RDT` (41_control_regs.md R172): recording the new availability is the store; no cause, no frame. -/
def execWrRdt (wv : Word) (be : BitVec 4) (s : State) : Result := .next (storeMasked .rdt wv be s)

/-- `RD.TDBAL` (41_control_regs.md R174). -/
def execRdTdbal (s : State) : Result := .next (yieldRead (dwRead s .tdbal) s)

/-- `WR.TDBAL` (41_control_regs.md R175): no hook. -/
def execWrTdbal (wv : Word) (be : BitVec 4) (s : State) : Result := .next (storeMasked .tdbal wv be s)

/-- `RD.TDBAH` (41_control_regs.md R176). -/
def execRdTdbah (s : State) : Result := .next (yieldRead (dwRead s .tdbah) s)

/-- `WR.TDBAH` (41_control_regs.md R177): no hook. -/
def execWrTdbah (wv : Word) (be : BitVec 4) (s : State) : Result := .next (storeMasked .tdbah wv be s)

/-- `RD.TDLEN` (41_control_regs.md R178). -/
def execRdTdlen (s : State) : Result := .next (yieldRead (dwRead s .tdlen) s)

/-- `WR.TDLEN` (41_control_regs.md R179): no hook. -/
def execWrTdlen (wv : Word) (be : BitVec 4) (s : State) : Result := .next (storeMasked .tdlen wv be s)

/-- `RD.TDH` (41_control_regs.md R180). -/
def execRdTdh (s : State) : Result := .next (yieldRead (dwRead s .tdh) s)

/-- `WR.TDH` (41_control_regs.md R181): `wmask` is 0: the write is discarded. -/
def execWrTdh (wv : Word) (be : BitVec 4) (s : State) : Result := .next (storeMasked .tdh wv be s)

/-- `RD.TDT` (41_control_regs.md R182). -/
def execRdTdt (s : State) : Result := .next (yieldRead (dwRead s .tdt) s)

end Sys2Proof.Machine
end

