-- ==== Sys2Proof/Machine/Eeprom.lean ====
section
/-! DEFINITION. The EEPROM window (43_eeprom_mdic.md R210 to R218). -/

namespace Sys2Proof.Machine

/-- The read command `adr` with START = 1 (43_eeprom_mdic.md R211): the word address stands in ADDR, where the hook finds it
stored already (log entry 9), and DONE is set at once. The command's data half is discarded. -/
def eerdStart (adr : Byte) (_data : BitVec 16) (s : State) : State :=
  setEerdDone true (s.setReg .eerd ((s.reg .eerd &&& ~~~Reg.eerd.wmask) ||| (adr.setWidth 32 <<< 8)))

/-- `EERD.START` (43_eeprom_mdic.md R211). -/
def execEerdStart (adr : Byte) (data : BitVec 16) (s : State) : Result := .next (eerdStart adr data s)

/-- `RD.EERD` (43_eeprom_mdic.md R210). -/
def execRdEerd (s : State) : Result := .next (yieldRead (dwRead s .eerd) s)

/-- `WR.EERD` (43_eeprom_mdic.md R211): ADDR is stored if lane 1 is enabled; the hook acts if lane 0 is. -/
def execWrEerd (wv : Word) (be : BitVec 4) (s : State) : Result :=
  let s1 := storeMasked .eerd wv be s
  .next
    (if be.getLsbD 0 then
      if wv.getLsbD 0 then eerdStart (eerdAddr s1) (wv.extractLsb' 16 16) s1 else setEerdDone false s1
    else s1)

end Sys2Proof.Machine
end

