-- ==== Sys2Proof/Machine/Interrupt.lean ====
section
/-! DEFINITION. The interrupt registers (42_interrupt_regs.md). In every write the disabled lanes of `wv` are already zero,
so a sub-dword write acts on the bits of its lanes only (42_interrupt_regs.md R200). -/

namespace Sys2Proof.Machine

/-- `RD.ICR` (42_interrupt_regs.md R190): the read clears nothing. -/
def execRdIcr (s : State) : Result := .next (yieldRead (dwRead s .icr) s)

/-- `WR.ICR`, the cause-clear operation (42_interrupt_regs.md R191). -/
def execWrIcr (wv : Word) (be : BitVec 4) (s : State) : Result :=
  let s1 := storeMasked .icr wv be s
  .next (evaluate (s1.setReg .icr (s1.reg .icr &&& ~~~wv)))

/-- `RD.ITR` (42_interrupt_regs.md R192). -/
def execRdItr (s : State) : Result := .next (yieldRead (dwRead s .itr) s)

/-- `WR.ITR` (42_interrupt_regs.md R193): no hook; a running holdoff is not touched (60_exceptions.md R351). -/
def execWrItr (wv : Word) (be : BitVec 4) (s : State) : Result := .next (storeMasked .itr wv be s)

/-- `RD.ICS` (42_interrupt_regs.md R194): reads 0. -/
def execRdIcs (s : State) : Result := .next (yieldRead (dwRead s .ics) s)

/-- `WR.ICS`, the cause-set operation (42_interrupt_regs.md R195). -/
def execWrIcs (wv : Word) (be : BitVec 4) (s : State) : Result := .next (raiseCause wv (storeMasked .ics wv be s))

/-- `RD.IMS` (42_interrupt_regs.md R196). -/
def execRdIms (s : State) : Result := .next (yieldRead (dwRead s .ims) s)

/-- `WR.IMS`, mask set (42_interrupt_regs.md R197). -/
def execWrIms (wv : Word) (be : BitVec 4) (s : State) : Result :=
  let s1 := storeMasked .ims wv be s
  .next (evaluate (s1.setReg .ims (s1.reg .ims ||| wv)))

/-- `RD.IMC` (42_interrupt_regs.md R198): reads 0. -/
def execRdImc (s : State) : Result := .next (yieldRead (dwRead s .imc) s)

/-- `WR.IMC`, mask clear (42_interrupt_regs.md R199). -/
def execWrImc (wv : Word) (be : BitVec 4) (s : State) : Result :=
  let s1 := storeMasked .imc wv be s
  .next (evaluate (s1.setReg .ims (s1.reg .ims &&& ~~~wv)))

end Sys2Proof.Machine
end

