-- ==== Sys2Proof/Machine/Mdi.lean ====
section
/-! DEFINITION. MDIC and the PHY (43_eeprom_mdic.md R220 to R225). -/

namespace Sys2Proof.Machine

/-- `PhyRead(r)` (43_eeprom_mdic.md R222). -/
def phyRead (s : State) (r : BitVec 5) : BitVec 16 :=
  if r = 0#5 then s.phy0
  else if r = 1#5 then 0x796D#16
  else if r = 2#5 then 0x0141#16
  else if r = 3#5 then 0x0C20#16
  else 0x0000#16

/-- `PhyWrite(r, v)` (43_eeprom_mdic.md R225). -/
def phyWrite (r : BitVec 5) (v : BitVec 16) (s : State) : State :=
  if r = 0#5 then { s with phy0 := if v.getLsbD 15 then 0x1140#16 else v &&& 0x7DFF#16 } else s

/-- The command stands in the writable bits of R.MDIC, where the hook finds it stored already (43_eeprom_mdic.md R221;
log entry 9). -/
def mdiLoad (op : BitVec 2) (phyadd : BitVec 5) (c : MdiFields) (s : State) : State :=
  s.setReg .mdic ((s.reg .mdic &&& ~~~Reg.mdic.wmask) ||| encodeMdi op phyadd c)

/-- `R.MDIC[15:0] <- v` (43_eeprom_mdic.md R221). -/
def setMdicData (v : BitVec 16) (s : State) : State :=
  s.setReg .mdic ((s.reg .mdic &&& 0xFFFF0000#32) ||| v.setWidth 32)

/-- A PHY register read (43_eeprom_mdic.md R221, R222). -/
def mdiRead (c : MdiFields) (s : State) : State :=
  mdiDone false (setMdicData (phyRead s c.regadd) (mdiLoad 0b10#2 Config.phyAddr c s))

/-- A PHY register write (43_eeprom_mdic.md R221, R225). -/
def mdiWrite (c : MdiFields) (s : State) : State :=
  mdiDone false (phyWrite c.regadd c.data (mdiLoad 0b01#2 Config.phyAddr c s))

/-- A reserved command, or one to a PHY address that does not answer (43_eeprom_mdic.md R223): E is set. -/
def mdiReserved (op : BitVec 2) (phyadd : BitVec 5) (c : MdiFields) (s : State) : State :=
  mdiDone true (mdiLoad op phyadd c s)

/-- The MDI operation of a command (43_eeprom_mdic.md R221). -/
def runMdi : MdiCmd → State → State
  | .read c, s => mdiRead c s
  | .write c, s => mdiWrite c s
  | .reserved op phyadd c, s => mdiReserved op phyadd c s

/-- `MDIC.READ` (43_eeprom_mdic.md R222). -/
def execMdicRead (c : MdiFields) (s : State) : Result := .next (mdiRead c s)

/-- `MDIC.WRITE` (43_eeprom_mdic.md R225). -/
def execMdicWrite (c : MdiFields) (s : State) : Result := .next (mdiWrite c s)

/-- `MDIC.RESERVED` (43_eeprom_mdic.md R223). -/
def execMdicReserved (op : BitVec 2) (phyadd : BitVec 5) (c : MdiFields) (s : State) : Result :=
  .next (mdiReserved op phyadd c s)

/-- `RD.MDIC` (43_eeprom_mdic.md R220). -/
def execRdMdic (s : State) : Result := .next (yieldRead (dwRead s .mdic) s)

/-- `WR.MDIC` (43_eeprom_mdic.md R221): the masked store, then the operation if lane 3, which holds OP, is enabled. -/
def execWrMdic (wv : Word) (be : BitVec 4) (s : State) : Result :=
  let s1 := storeMasked .mdic wv be s
  .next (if be.getLsbD 3 then runMdi (decodeMdi (s1.reg .mdic)) s1 else s1)

end Sys2Proof.Machine
end

