-- ==== Sys2Proof/Machine/Offload.lean ====
section
/-! DEFINITION. Transmit offload processing (45_offload.md): pure functions of the frame bytes and of the directive. -/

namespace Sys2Proof.Machine

/-! ### Checksums -/

/-- The unfolded sum of the big-endian words of a byte sequence; an odd last byte is the high byte of a word whose low byte
is 0 (45_offload.md R280). -/
def wordSum : List Byte → Nat
  | [] => 0
  | [hi] => 256 * hi.toNat
  | hi :: lo :: rest => 256 * hi.toNat + lo.toNat + wordSum rest

/-- The rounds of `Fold` (45_offload.md R280), at most `fuel` of them. -/
def foldRounds : Nat → Nat → Nat
  | 0, acc => acc
  | fuel + 1, acc => if 0xFFFF < acc then foldRounds fuel (acc % 65536 + acc / 65536) else acc

/-- `Fold(acc)` (45_offload.md R280): a round above 0xFFFF lowers `acc`, so `acc` rounds are enough. -/
def foldSum (acc : Nat) : Nat := foldRounds acc acc

/-- `OcSum(s)` (45_offload.md R280). -/
def ocSum (s : List Byte) : Nat := foldSum (wordSum s)

/-- The checksum stored for a summed range: the complement of its sum, 0x0000 stored as 0xFFFF (45_offload.md R281). -/
def csumValue (s : List Byte) : BitVec 16 :=
  let c := ~~~(BitVec.ofNat 16 (ocSum s))
  if c = 0x0000#16 then 0xFFFF#16 else c

/-- The exclusive end of the summed range (45_offload.md R281); `cse` is an inclusive last byte, 0 the end of the frame. -/
def csumEnd (n cse : Nat) : Nat := if cse ≠ 0 ∧ cse < n then cse + 1 else n

/-- `CsumInsert(f, css, cso, cse)`: the frame and whether the directive failed (45_offload.md R281). -/
def csumInsert (f : List Byte) (css cso cse : Nat) : List Byte × Bool :=
  if css < csumEnd f.length cse ∧ cso + 2 ≤ f.length then
    (overwrite f cso (putBe16 (csumValue (slice f css (csumEnd f.length cse))).toNat), false)
  else (f, true)

/-- TXSM, bit 1 of `popts`: insert the TCP/UDP checksum (30_encoding.md R104). -/
def txsm (popts : Byte) : Bool := popts.getLsbD 1

/-- IXSM, bit 0 of `popts`: insert the IP checksum (30_encoding.md R104). -/
def ixsm (popts : Byte) : Bool := popts.getLsbD 0

/-- The TCP/UDP checksum of the context, if TXSM asks for it (45_offload.md R283, R288). -/
def insertTu (c : TxCtx) (popts : Byte) (f : List Byte) : List Byte × Bool :=
  if txsm popts then csumInsert f c.tucss.toNat c.tucso.toNat c.tucse.toNat else (f, false)

/-- The IP checksum of the context, if IXSM asks for it (45_offload.md R283, R288). -/
def insertIp (c : TxCtx) (popts : Byte) (f : List Byte) : List Byte × Bool :=
  if ixsm popts then csumInsert f c.ipcss.toNat c.ipcso.toNat c.ipcse.toNat else (f, false)

/-- `CtxChecksum(f, popts)`: TXSM first, then IXSM; a failing insertion does not stop the other (45_offload.md R283). -/
def ctxChecksum (c : TxCtx) (popts : Byte) (f : List Byte) : List Byte × Bool :=
  let r1 := insertTu c popts f
  let r2 := insertIp c popts r1.1
  (r2.1, r1.2 || r2.2)

/-! ### Segmentation -/

/-- The segmentation directive is well formed for a frame of `n` bytes (45_offload.md R285). -/
def segmentValid (c : TxCtx) (popts : Byte) (n : Nat) : Bool :=
  let H := c.hdrlen.toNat
  decide (1 ≤ c.mss.toNat) && decide (1 ≤ H ∧ H ≤ n) && decide (c.ipcss.toNat + 6 ≤ H)
    && (if c.tcp then decide (c.tucss.toNat + 14 ≤ H) else decide (c.tucss.toNat + 6 ≤ H))
    && (!txsm popts || decide (c.tucso.toNat + 2 ≤ H)) && (!ixsm popts || decide (c.ipcso.toNat + 2 ≤ H))

/-- `max(1, ceil(n / d))` (45_offload.md R286, 46_receive.md R305). -/
def ceilDiv1 (n d : Nat) : Nat := max 1 ((n + d - 1) / d)

/-- The IP fix-ups of segment `k` (45_offload.md R287). The difference `S - i - 40` is taken modulo 2^16 with a
non-negative remainder (00_scope.md R8; log entry 15). -/
def fixIp (c : TxCtx) (hdr : List Byte) (k S : Nat) (g : List Byte) : List Byte :=
  let i := c.ipcss.toNat
  if c.ip4 then
    overwrite (overwrite g (i + 2) (putBe16 ((S - i) % 65536))) (i + 4) (putBe16 ((be16 hdr (i + 4) + k) % 65536))
  else overwrite g (i + 4) (putBe16 ((S - i + 65536 - 40) % 65536))

/-- The transport fix-ups of segment `k` of `nseg` (45_offload.md R287). -/
def fixTransport (c : TxCtx) (hdr : List Byte) (k nseg S : Nat) (g : List Byte) : List Byte :=
  let t := c.tucss.toNat
  if c.tcp then
    let g1 := overwrite g (t + 4) (putBe32 ((be32 hdr (t + 4) + k * c.mss.toNat) % 2 ^ 32))
    if k < nseg - 1 then overwrite g1 (t + 13) [byteAt g1 (t + 13) &&& 0xF6#8] else g1
  else overwrite g (t + 4) (putBe16 ((S - t) % 65536))

/-- TXSM adds the segment's transport length to the seeded pseudo-header sum (45_offload.md R287). -/
def fixSeed (c : TxCtx) (popts : Byte) (S : Nat) (g : List Byte) : List Byte :=
  if txsm popts then
    overwrite g c.tucso.toNat (putBe16 (foldSum (be16 g c.tucso.toNat + (S - c.tucss.toNat))))
  else g

/-- Segment `k` of `nseg` and whether a checksum insertion failed in it (45_offload.md R286 to R288). -/
def segmentFrame (c : TxCtx) (popts : Byte) (f : List Byte) (nseg k : Nat) : List Byte × Bool :=
  let H := c.hdrlen.toNat
  let M := c.mss.toNat
  let hdr := f.take H
  let g := hdr ++ ((f.drop H).drop (k * M)).take M
  let S := g.length
  ctxChecksum c popts (fixSeed c popts S (fixTransport c hdr k nseg S (fixIp c hdr k S g)))

/-- `Segment(f, popts)`: the frames to send, in order, and whether the directive failed (45_offload.md R285, R286, R288).
`txctx.paylen` is not used. -/
def segment (c : TxCtx) (popts : Byte) (f : List Byte) : List (List Byte) × Bool :=
  if segmentValid c popts f.length then
    let nseg := ceilDiv1 (f.length - c.hdrlen.toNat) c.mss.toNat
    let segs := (List.range nseg).map (segmentFrame c popts f nseg)
    (segs.map Prod.fst, segs.any Prod.snd)
  else ([f], true)

end Sys2Proof.Machine
end

