-- ==== Sys2Proof/Machine/Receive.lean ====
section
/-! DEFINITION. The Receive Engine (46_receive.md): the frame event, gathering, filling and write-back, and the receive
checksums. -/

namespace Sys2Proof.Machine

/-! ### Checksum validity -/

/-- `4 * frame[14][3:0]`, the IPv4 header length in bytes (46_receive.md R314, R315). -/
def rxIhl (f : List Byte) : Nat := 4 * ((byteAt f 14).extractLsb' 0 4).toNat

/-- `IsIPv4(frame)` (46_receive.md R315). -/
def isIPv4 (f : List Byte) : Bool :=
  decide (34 ≤ f.length) && byteAt f 12 == 0x08#8 && byteAt f 13 == 0x00#8 && (byteAt f 14).extractLsb' 4 4 == 4#4
    && decide (20 ≤ rxIhl f) && decide (14 + rxIhl f ≤ f.length)

/-- `proto = frame[23]` is 6 (46_receive.md R316). -/
def rxIsTcp (f : List Byte) : Bool := byteAt f 23 == 6#8

/-- `proto = frame[23]` is 17 (46_receive.md R316). -/
def rxIsUdp (f : List Byte) : Bool := byteAt f 23 == 17#8

/-- `tot = be16(frame, 16)` (46_receive.md R316). -/
def rxTot (f : List Byte) : Nat := be16 f 16

/-- `L4Checkable(frame)`, given `IsIPv4` (46_receive.md R316). -/
def l4Checkable (f : List Byte) : Bool :=
  (rxIsTcp f || rxIsUdp f) && be16 f 20 % 0x4000 == 0
    && decide (rxIhl f + (if rxIsTcp f then 20 else 8) ≤ rxTot f) && decide (14 + rxTot f ≤ f.length)
    && (!rxIsUdp f || be16 f (14 + rxIhl f + 6) != 0)

/-- `L4Good(frame)`: the pseudo-header and the segment sum to 0xFFFF (46_receive.md R317). -/
def l4Good (f : List Byte) : Bool :=
  ocSum (slice f 26 34 ++ [0x00#8, byteAt f 23] ++ putBe16 (rxTot f - rxIhl f)
    ++ slice f (14 + rxIhl f) (14 + rxTot f)) == 0xFFFF

/-- The packet checksum from byte `pcss` on (46_receive.md R318). -/
def rxPacketCsum (pcss : Nat) (f : List Byte) : BitVec 16 :=
  if pcss < f.length then BitVec.ofNat 16 (ocSum (f.drop pcss)) else 0x0000#16

/-- IPOFL, bit 8 of RXCSUM (10_state.md R37). -/
def ipofl (rxcsum : Word) : Bool := rxcsum.getLsbD 8

/-- TUOFL, bit 9 of RXCSUM (10_state.md R37). -/
def tuofl (rxcsum : Word) : Bool := rxcsum.getLsbD 9

/-- `RxChecksum(frame, trunc)` (46_receive.md R314). -/
def rxChecksum (rxcsum : Word) (f : List Byte) (trunc : Bool) : RxCsum :=
  if (!ipofl rxcsum && !tuofl rxcsum) || trunc then { status := 0x04#8, errors := 0x00#8, csum := 0x0000#16 }
  else
    let csum := rxPacketCsum (rxcsum.extractLsb' 0 8).toNat f
    if isIPv4 f then
      let ipStatus := if ipofl rxcsum then 0x40#8 else 0x00#8
      let ipErrors :=
        if ipofl rxcsum && ocSum (slice f 14 (14 + rxIhl f)) != 0xFFFF then 0x40#8 else 0x00#8
      let tuChecked := tuofl rxcsum && l4Checkable f
      let tuStatus := if tuChecked then 0x20#8 else 0x00#8
      let tuErrors := if tuChecked && !l4Good f then 0x20#8 else 0x00#8
      let status := ipStatus ||| tuStatus
      { status := if status = 0x00#8 then 0x04#8 else status, errors := ipErrors ||| tuErrors, csum := csum }
    else { status := 0x04#8, errors := 0x00#8, csum := csum }

/-! ### Buffer size, drop, gathering -/

/-- `RxBufSize()` (46_receive.md R302), from BSEX (bit 25) and BSIZE (bits 17:16) of RCTL. -/
def rxBufSize (rctl : Word) : Nat :=
  let bsize := rctl.extractLsb' 16 2
  if rctl.getLsbD 25 then
    if bsize = 0b00#2 then 2048 else if bsize = 0b01#2 then 16384 else if bsize = 0b10#2 then 8192 else 4096
  else if bsize = 0b00#2 then 2048 else if bsize = 0b01#2 then 1024 else if bsize = 0b10#2 then 512 else 256

/-- `RxDrop()`: RingOverrun, and the drop counter with saturation (46_receive.md R304). -/
def rxDrop (s : State) : State :=
  let s1 := raiseFault .ringOverrun s
  { s1 with rxDropCount := if s1.rxDropCount = 0xFFFFFFFF#32 then s1.rxDropCount else s1.rxDropCount + 1#32 }

/-- One scan of `RxGather`: the descriptor at the head is fetched, and the head passes it whether it could be fetched or
not (46_receive.md R306). -/
def rxFetch (nr : Nat) (s : State) : Option (Addr × RxDesc) × State :=
  let a := rxDescAddr s
  match memRead a Config.descSize s with
  | (none, s1) => (none, advanceRdh nr (raiseFault (.dma .rxDescFetch) s1))
  | (some d, s1) => (some (a, decodeRxd (descInt d)), advanceRdh nr s1)

/-- `RxGather(free, need)` (46_receive.md R306): the descriptors in hand with their addresses, in ring order. `free` counts
down where the rule's `scanned` counts up, and `need` where `|got|` does. -/
def rxGather (nr : Nat) : Nat → Nat → State → List (Addr × RxDesc) × State
  | 0, _, s => ([], s)
  | _ + 1, 0, s => ([], s)
  | free + 1, need + 1, s =>
    match rxFetch nr s with
    | (none, s1) => rxGather nr free (need + 1) s1
    | (some e, s1) =>
      let r := rxGather nr free need s1
      (e :: r.1, r.2)

/-! ### Filling -/

/-- The eight bytes of the device-filled half of a descriptor (46_receive.md R310). -/
def rxWriteBackBytes (n : Nat) (csum : BitVec 16) (status errors : Byte) : List Byte :=
  putLe16 n ++ putLe16 csum.toNat ++ [status, errors, 0x00#8, 0x00#8]

/-- `RxWriteBack(a, n, csum, status, errors)` (46_receive.md R310). -/
def rxWriteBack (a : Addr) (n : Nat) (csum : BitVec 16) (status errors : Byte) (s : State) : State :=
  match memWrite (a + 8#64) (rxWriteBackBytes n csum status errors) s with
  | (true, s1) => s1
  | (false, s1) => raiseFault (.dma .rxWriteback) s1

/-- Writes a chunk of the frame to a buffer; true if the write faulted (46_receive.md R308). An empty chunk writes
nothing. -/
def rxWriteBuffer (buf : Addr) (chunk : List Byte) (s : State) : Bool × State :=
  if chunk.isEmpty then (false, s)
  else
    match memWrite buf chunk s with
    | (true, s1) => (false, s1)
    | (false, s1) => (true, raiseFault (.dma .rxBuffer) s1)

/-- `min(B, L - off)`, the bytes of the frame the next descriptor takes (46_receive.md R308). -/
def rxChunkLen (job : RxFill) : Nat := min job.bufSize (job.frame.length - job.index * job.bufSize)

/-- The bytes of the frame the next descriptor takes (46_receive.md R308). -/
def rxChunk (job : RxFill) : List Byte :=
  slice job.frame (job.index * job.bufSize) (job.index * job.bufSize + rxChunkLen job)

/-- The status byte of a filled descriptor (46_receive.md R308). -/
def rxStatus (job : RxFill) (last : Bool) : Byte := if last then 0x01#8 ||| 0x02#8 ||| job.cs.status else 0x01#8

/-- The errors byte of a filled descriptor; `wfail` is this descriptor's buffer write, `anyfail` any so far
(46_receive.md R308). -/
def rxErrors (job : RxFill) (last wfail anyfail : Bool) : Byte :=
  let own := if wfail then Config.rxerrTrunc else 0x00#8
  if last then own ||| job.cs.errors ||| (if job.trunc || anyfail then Config.rxerrTrunc else 0x00#8) else own

/-- One descriptor of `RxFill` (46_receive.md R308): the chunk is written to the buffer `buf`, then the status is written
back to the gathered descriptor whose turn it is. With none waiting nothing happens (log entry 8). -/
def rxFillOne (buf : Addr) (s : State) : State :=
  match s.rx with
  | none => s
  | some job =>
    match job.pending with
    | [] => s
    | a :: rest =>
      let last := rest.isEmpty
      let w := rxWriteBuffer buf (rxChunk job) s
      let anyfail := job.anyfail || w.1
      let s1 :=
        rxWriteBack a (rxChunkLen job) (if last then job.cs.csum else 0x0000#16) (rxStatus job last)
          (rxErrors job last w.1 anyfail) w.2
      { s1 with rx := some { job with pending := rest, index := job.index + 1, anyfail := anyfail } }

/-- `RXD` (46_receive.md R308, R310): only the buffer address of the descriptor is used. -/
def execRxd (d : RxDesc) (s : State) : Result := .next (rxFillOne d.addr s)

/-- `RxFill(frame, got, need, B)` (46_receive.md R308). -/
def rxFill (frame : List Byte) (got : List (Addr × RxDesc)) (need B : Nat) (s : State) : State :=
  let trunc := decide (got.length < need)
  let job : RxFill :=
    { frame := frame, bufSize := B, pending := got.map Prod.fst, index := 0, trunc := trunc
      cs := rxChecksum (s.reg .rxcsum) frame trunc, anyfail := false }
  let s1 := got.foldl (fun t e => rxFillOne e.2.addr t) { s with rx := some job }
  { s1 with rx := none }

/-! ### The frame event -/

/-- Free descriptors: `(R.RDT[15:0] - R.RDH) mod NR` (46_receive.md R303), for indices below `NR`. -/
def rxFree (s : State) : Nat := (rxTail s + rxCount s - rxHead s) % rxCount s

/-- `RxFrame(frame)` (46_receive.md R300). -/
def receiveFrame (frame : List Byte) (s : State) : State :=
  if ringRefused (rxCount s) (rxHead s) (rxTail s) then rxDrop s
  else if rxFree s = 0 then rxDrop s
  else
    let B := rxBufSize (s.reg .rctl)
    let need := ceilDiv1 frame.length B
    let g := rxGather (rxCount s) (rxFree s) need s
    if g.1.isEmpty then rxDrop g.2 else raiseCause causeRxt0 (rxFill frame g.1 need B g.2)

/-- `RX.FRAME` (46_receive.md R300). -/
def execRxFrame (frame : List Byte) (s : State) : Result := .next (receiveFrame frame s)

end Sys2Proof.Machine
end

