-- ==== Sys2Proof/Machine/Timer.lean ====
section
/-! DEFINITION. The coalescing timer (60_exceptions.md R350 to R352). -/

namespace Sys2Proof.Machine

/-- `Tick()` (60_exceptions.md R352). -/
def tick (s : State) : State :=
  if s.itrHoldoff = 0#16 then s
  else
    let s1 : State := { s with itrHoldoff := s.itrHoldoff - 1#16 }
    if s1.itrHoldoff = 0#16 then evaluate s1 else s1

/-- `TIMER.TICK` (60_exceptions.md R352). -/
def execTimerTick (s : State) : Result := .next (tick s)

end Sys2Proof.Machine
end

