-- ==== Sys2Proof/Machine/Transmit.lean ====
section
/-! DEFINITION. The Transmit Engine (44_transmit.md): the doorbell, the drain, the four descriptor kinds and the
write-back. -/

namespace Sys2Proof.Machine

/-! ### The packet under assembly -/

/-- The next buffer descriptor starts a new packet; what the drain requested so far stays (44_transmit.md R244, R252,
R254). -/
def clearPacket (s : State) : State := { s with tx := { TxAsm.fresh with wantIrq := s.tx.wantIrq } }

/-- The packet is poisoned: its bytes are dropped and no frame will be sent for it (44_transmit.md R253, R256). -/
def poisonPacket (s : State) : State := { s with tx := { s.tx with poison := true, asm := [] } }

/-- The first buffer descriptor of a packet fixes its kind, TSE and `popts` (44_transmit.md R251). -/
def startPacket (kind : TxKind) (tse : Bool) (popts : Byte) (s : State) : State :=
  if s.tx.firstKind = none then
    { s with tx := { s.tx with firstKind := some kind, pktTse := tse, pktPopts := popts } }
  else s

/-- Reads a descriptor's buffer into the assembly; true if the descriptor failed (44_transmit.md R252, R253). -/
def gatherBuffer (addr : Addr) (len : Nat) (s : State) : Bool × State :=
  if len = 0 then (false, s)
  else
    match memRead addr len s with
    | (none, s1) => (true, poisonPacket (raiseFault (.dma .txBuffer) s1))
    | (some b, s1) =>
      if s1.tx.poison then (false, s1)
      else if Config.txFrameMax < s1.tx.asm.length + len then
        (true, poisonPacket (raiseFault (.dma .txFrameOverflow) s1))
      else (false, { s1 with tx := { s1.tx with asm := s1.tx.asm ++ b } })

/-- The frames of a complete packet and whether its offload failed (45_offload.md R284). `ic` holds `css` and `cso` if the
descriptor that ends the packet is LEGACY with IC = 1 (R282). -/
def packetFrames (c : TxCtx) (tx : TxAsm) (ic : Option (Byte × Byte)) : List (List Byte) × Bool :=
  if tx.firstKind = some .data then
    if tx.pktTse then segment c tx.pktPopts tx.asm
    else
      let r := ctxChecksum c tx.pktPopts tx.asm
      ([r.1], r.2)
  else
    match ic with
    | some (css, cso) =>
      let r := csumInsert tx.asm css.toNat cso.toNat 0
      ([r.1], r.2)
    | none => ([tx.asm], false)

/-- `Send` of each frame, in order (45_offload.md R284). -/
def sendAll (frames : List (List Byte)) (s : State) : State := frames.foldl (fun t f => t.emit (.send f)) s

/-- `TxComplete(st, d, kind)`; true if the offload failed (45_offload.md R284). -/
def txComplete (ic : Option (Byte × Byte)) (s : State) : Bool × State :=
  let r := packetFrames s.txctx s.tx ic
  (r.2, sendAll r.1 (if r.2 then raiseFault (.offload .txOffload) s else s))

/-- The end of a packet (44_transmit.md R252, R255 to R257); true if the offload failed. -/
def endPacket (eop : Bool) (ic : Option (Byte × Byte)) (s : State) : Bool × State :=
  if eop then
    if s.tx.poison || s.tx.asm.isEmpty then (false, clearPacket s)
    else
      let r := txComplete ic s
      (r.1, clearPacket r.2)
  else (false, s)

/-! ### Write-back and interrupt request -/

/-- The status nibble to write back, if any (44_transmit.md R258): DD and ERR on an error, DD if RS asks for it. -/
def txStatus (rs failed offerr : Bool) : Option (BitVec 4) :=
  if failed || offerr then some (0x1#4 ||| Config.txstaErr) else if rs then some 0x1#4 else none

/-- `TxWriteBack` of the descriptor at the transmit head (44_transmit.md R258): one byte, its high nibble as fetched. -/
def txWriteBack (rsv : BitVec 4) (sta : Option (BitVec 4)) (s : State) : State :=
  match sta with
  | none => s
  | some v =>
    match memWrite (txDescAddr s + 12#64) [rsv ++ v] s with
    | (true, s1) => s1
    | (false, s1) => raiseFault (.dma .txWriteback) s1

/-- The descriptor requested an interrupt (44_transmit.md R259). -/
def requestIrq (b : Bool) (s : State) : State := { s with tx := { s.tx with wantIrq := s.tx.wantIrq || b } }

/-- The end of a descriptor's step: the write-back, then the interrupt request (44_transmit.md R243). -/
def finishDesc (rs : Bool) (rsv : BitVec 4) (failed offerr : Bool) (s : State) : State :=
  requestIrq (rs || failed || offerr) (txWriteBack rsv (txStatus rs failed offerr) s)

/-! ### The descriptor kinds, each at the transmit head -/

/-- A LEGACY descriptor (44_transmit.md R246, R252). -/
def txLegacy (d : LegacyDesc) (s : State) : State :=
  let g := gatherBuffer d.addr d.length.toNat (startPacket .legacy false 0#8 s)
  let e := endPacket d.eop (if d.ic then some (d.css, d.cso) else none) g.2
  finishDesc d.rs d.rsv g.1 e.1 e.2

/-- A DATA descriptor (44_transmit.md R247, R252). -/
def txData (d : DataDesc) (s : State) : State :=
  let g := gatherBuffer d.addr d.dtalen.toNat (startPacket .data d.tse d.popts s)
  let e := endPacket d.eop none g.2
  finishDesc d.rs d.rsv g.1 e.1 e.2

/-- A CONTEXT descriptor loads `txctx`; it never fails (44_transmit.md R250). -/
def txContext (d : ContextDesc) (s : State) : State :=
  finishDesc d.rs d.rsv false false
    { s with
      txctx :=
        { ipcss := d.ipcss, ipcso := d.ipcso, ipcse := d.ipcse, tucss := d.tucss, tucso := d.tucso, tucse := d.tucse
          paylen := d.paylen, hdrlen := d.hdrlen, mss := d.mss, tcp := d.tcp, ip4 := d.ip, ctse := d.tse } }

/-- A descriptor of a reserved kind: OffloadError, its packet is poisoned and no buffer is read (44_transmit.md R254). -/
def txReserved (d : ReservedDesc) (s : State) : State :=
  let s1 := poisonPacket (raiseFault (.offload .txReservedKind) (startPacket .legacy false 0#8 s))
  finishDesc d.rs d.rsv true false (if d.eop then clearPacket s1 else s1)

/-- The step of a fetched descriptor, by its kind (44_transmit.md R243). -/
def runTxd : TxDesc → State → State
  | .legacy d, s => txLegacy d s
  | .context d, s => txContext d s
  | .data d, s => txData d s
  | .reserved d, s => txReserved d s

/-- `TXD.LEGACY` (44_transmit.md R246), the descriptor being the one at the transmit head (log entry 7). -/
def execTxdLegacy (d : LegacyDesc) (s : State) : Result := .next (txLegacy d s)

/-- `TXD.CONTEXT` (44_transmit.md R250). -/
def execTxdContext (d : ContextDesc) (s : State) : Result := .next (txContext d s)

/-- `TXD.DATA` (44_transmit.md R247). -/
def execTxdData (d : DataDesc) (s : State) : Result := .next (txData d s)

/-- `TXD.RESERVED` (44_transmit.md R254). -/
def execTxdReserved (d : ReservedDesc) (s : State) : Result := .next (txReserved d s)

/-! ### The drain -/

/-- `TxStep(st)`: fetch, decode and run the descriptor at the head, or skip it if the fetch faults (44_transmit.md R243,
R244). -/
def txStep (s : State) : State :=
  match memRead (txDescAddr s) Config.descSize s with
  | (none, s1) => clearPacket (raiseFault (.dma .txDescFetch) s1)
  | (some d, s1) => runTxd (decodeTxd (descInt d)) s1

/-- The loop of the drain (44_transmit.md R241): while the head is not the tail, one step and one advance of the head. It runs
fewer than `nt` times, so `nt` as `fuel` does not cut it short. -/
def txLoop (nt : Nat) : Nat → State → State
  | 0, s => s
  | fuel + 1, s => if txHead s = txTail s then s else txLoop nt fuel (advanceTdh nt (txStep s))

/-- `TxDrain()` (44_transmit.md R241, R242, R261, R262). -/
def txDrain (s : State) : State :=
  if ringRefused (txCount s) (txHead s) (txTail s) then s
  else
    let s1 := txLoop (txCount s) (txCount s) { s with tx := TxAsm.fresh }
    let s2 : State := { s1 with tx := TxAsm.fresh }
    if s1.tx.wantIrq then raiseCause causeTxdw s2 else s2

/-- `WR.TDT` (44_transmit.md R240): the masked store, then the drain, whatever the byte enables. -/
def execWrTdt (wv : Word) (be : BitVec 4) (s : State) : Result := .next (txDrain (storeMasked .tdt wv be s))

end Sys2Proof.Machine
end

