-- ==== Sys2Proof/Machine/Dispatch.lean ====
section
/-! DEFINITION. The dispatch of an operation to its meaning: one arm for each row of spec/opcode_table.json. -/

namespace Sys2Proof.Machine

def exec (i : Instr) (s : State) : Host.Outcome State Fault Refusal :=
  match i with
  | .rdCtrl => Sys2Proof.Machine.execRdCtrl s
  | .wrCtrl wv be => Sys2Proof.Machine.execWrCtrl wv be s
  | .rdStatus => Sys2Proof.Machine.execRdStatus s
  | .wrStatus wv be => Sys2Proof.Machine.execWrStatus wv be s
  | .rdEerd => Sys2Proof.Machine.execRdEerd s
  | .wrEerd wv be => Sys2Proof.Machine.execWrEerd wv be s
  | .rdMdic => Sys2Proof.Machine.execRdMdic s
  | .wrMdic wv be => Sys2Proof.Machine.execWrMdic wv be s
  | .rdIcr => Sys2Proof.Machine.execRdIcr s
  | .wrIcr wv be => Sys2Proof.Machine.execWrIcr wv be s
  | .rdItr => Sys2Proof.Machine.execRdItr s
  | .wrItr wv be => Sys2Proof.Machine.execWrItr wv be s
  | .rdIcs => Sys2Proof.Machine.execRdIcs s
  | .wrIcs wv be => Sys2Proof.Machine.execWrIcs wv be s
  | .rdIms => Sys2Proof.Machine.execRdIms s
  | .wrIms wv be => Sys2Proof.Machine.execWrIms wv be s
  | .rdImc => Sys2Proof.Machine.execRdImc s
  | .wrImc wv be => Sys2Proof.Machine.execWrImc wv be s
  | .rdRctl => Sys2Proof.Machine.execRdRctl s
  | .wrRctl wv be => Sys2Proof.Machine.execWrRctl wv be s
  | .rdTctl => Sys2Proof.Machine.execRdTctl s
  | .wrTctl wv be => Sys2Proof.Machine.execWrTctl wv be s
  | .rdRdbal => Sys2Proof.Machine.execRdRdbal s
  | .wrRdbal wv be => Sys2Proof.Machine.execWrRdbal wv be s
  | .rdRdbah => Sys2Proof.Machine.execRdRdbah s
  | .wrRdbah wv be => Sys2Proof.Machine.execWrRdbah wv be s
  | .rdRdlen => Sys2Proof.Machine.execRdRdlen s
  | .wrRdlen wv be => Sys2Proof.Machine.execWrRdlen wv be s
  | .rdRdh => Sys2Proof.Machine.execRdRdh s
  | .wrRdh wv be => Sys2Proof.Machine.execWrRdh wv be s
  | .rdRdt => Sys2Proof.Machine.execRdRdt s
  | .wrRdt wv be => Sys2Proof.Machine.execWrRdt wv be s
  | .rdTdbal => Sys2Proof.Machine.execRdTdbal s
  | .wrTdbal wv be => Sys2Proof.Machine.execWrTdbal wv be s
  | .rdTdbah => Sys2Proof.Machine.execRdTdbah s
  | .wrTdbah wv be => Sys2Proof.Machine.execWrTdbah wv be s
  | .rdTdlen => Sys2Proof.Machine.execRdTdlen s
  | .wrTdlen wv be => Sys2Proof.Machine.execWrTdlen wv be s
  | .rdTdh => Sys2Proof.Machine.execRdTdh s
  | .wrTdh wv be => Sys2Proof.Machine.execWrTdh wv be s
  | .rdTdt => Sys2Proof.Machine.execRdTdt s
  | .wrTdt wv be => Sys2Proof.Machine.execWrTdt wv be s
  | .rdRxcsum => Sys2Proof.Machine.execRdRxcsum s
  | .wrRxcsum wv be => Sys2Proof.Machine.execWrRxcsum wv be s
  | .rdUnmapped a => Sys2Proof.Machine.execRdUnmapped a s
  | .wrUnmapped a wv be => Sys2Proof.Machine.execWrUnmapped a wv be s
  | .accessFault cause acc => Sys2Proof.Machine.execAccessFault cause acc s
  | .mdicRead c => Sys2Proof.Machine.execMdicRead c s
  | .mdicWrite c => Sys2Proof.Machine.execMdicWrite c s
  | .mdicReserved op phyadd c => Sys2Proof.Machine.execMdicReserved op phyadd c s
  | .eerdStart adr data => Sys2Proof.Machine.execEerdStart adr data s
  | .txdLegacy d => Sys2Proof.Machine.execTxdLegacy d s
  | .txdContext d => Sys2Proof.Machine.execTxdContext d s
  | .txdData d => Sys2Proof.Machine.execTxdData d s
  | .txdReserved d => Sys2Proof.Machine.execTxdReserved d s
  | .rxd d => Sys2Proof.Machine.execRxd d s
  | .rxFrame frame => Sys2Proof.Machine.execRxFrame frame s
  | .timerTick => Sys2Proof.Machine.execTimerTick s
  | .resetPoweron => Sys2Proof.Machine.execResetPoweron s

end Sys2Proof.Machine
end

