-- ==== Sys2Proof/Machine/Run.lean ====
section
/-! DEFINITION. One operation of an agent from start to finish (60_exceptions.md R360): its decoded operations in order, and
the response of an access (40_dispatcher.md R130). -/

namespace Sys2Proof.Machine

/-- Runs operations in order, each complete before the next starts (20_memory.md R66). -/
def runInstrs : List Instr → State → Result
  | [], s => .next s
  | i :: is, s =>
    match exec i s with
    | .next t => runInstrs is t
    | .fault r => .fault r
    | .refused r => .refused r

/-- The response of an access (40_dispatcher.md R130, 30_encoding.md R94); the other agents' operations have none. -/
def finishOperation : Operation → State → State
  | .access acc, s =>
    ({ s with bus := Bus.idle } : State).emit
      (.response (if s.bus.fault then 0#64 else assembleRead acc s.bus.reads) s.bus.fault)
  | .rxFrame _, s => s
  | .tick, s => s
  | .powerOn, s => s

/-- One operation of an agent. -/
def runOperation (o : Operation) (s : State) : Result :=
  match runInstrs (decodeOperation o) { s with bus := Bus.idle } with
  | .next t => .next (finishOperation o t)
  | .fault r => .fault r
  | .refused r => .refused r

/-- What comes next in the schedule: an operation, or a move of the environment (log entries 1, 3, 4). -/
def runInput : Input → State → Result
  | .op o, s => runOperation o s
  | .guestStore a v, s => .next { s with mem := Memory.write s.mem a.toNat v }
  | .remap hs, s => .next { s with holes := hs }

/-- Puts an operation next in the schedule. -/
def schedule (o : Operation) (s : State) : State := { s with inbox := .op o :: s.inbox }

/-- A 4-byte MMIO write of a value to an offset. -/
def write32 (off : Nat) (v : Word) : Operation :=
  .access { dir := .write, off := off, width := 4, wdata := v.setWidth 64 }

/-- Places what stands on a wire so that the next step runs it (log entry 2): an access as itself, an MDI or an EEPROM
command as the 4-byte write of its register, whose hook runs it, and a transmit descriptor at index 0 of a ring of two at
the ring's base, in memory that is mapped, with the doorbell that lets the head reach it. -/
def placeWire : Wire → State → State
  | .access acc, s => schedule (.access acc) s
  | .aw w wdata, s =>
    match accessOfWord w wdata with
    | .ok acc => schedule (.access acc) s
    | .error _ => s
  | .mdicmd w, s => schedule (write32 Reg.mdic.offset w) s
  | .eecmd w, s => schedule (write32 Reg.eerd.offset w) s
  | .txdesc bytes, s =>
    let s1 := (s.setReg .tdh 0#32).setReg .tdlen 32#32
    schedule (write32 Reg.tdt.offset 1#32)
      { s1 with holes := [], mem := Memory.writeRange s1.mem (descAddr (tdba s1) 0).toNat bytes }
  | .rxdesc _, s => s
  | .frame f, s => schedule (.rxFrame f) s
  | .tick, s => schedule .tick s
  | .powerOn, s => schedule .powerOn s

end Sys2Proof.Machine
end

