-- ==== Sys2Proof/Machine/Step.lean ====
section
/-! DEFINITION. The step of the machine, and the state whose next step runs a row of spec/opcode_table.json. -/

namespace Sys2Proof.Machine

/-- One step: the next entry of the schedule (60_exceptions.md R361). With nothing scheduled no agent takes a step and
nothing changes (log entry 1). -/
def step (s : State) : Host.Outcome State Fault Refusal :=
  match s.inbox with
  | [] => .next s
  | i :: rest => runInput i { s with inbox := rest }

/-- `s` with the operation of a table row's bits placed where the next step runs it (log entry 2). -/
def State.withFetchWord (s : State) (nbits w : Nat) : State := placeWire (wireOfTable nbits w) s

end Sys2Proof.Machine
end

