-- ==== Sys2Proof/Safety.lean ====
section
/-! DEFINITION. What every state between two operations satisfies, and the words the statements about runs use. -/

namespace Sys2Proof.Machine

/-- The interrupt line follows the enabled pending causes up to the holdoff (60_exceptions.md R348). -/
abbrev IrqInv (s : State) : Prop :=
  (s.irqLine = true → irqWanted s = true) ∧
    (irqWanted s = true → s.irqLine = false → s.itrHoldoff ≠ 0#16)

/-- The bits of every register that neither software nor an engine writes are at their reset value (10_state.md R11). -/
abbrev RegInv (s : State) : Prop := ∀ r ∈ Reg.all, s.reg r &&& ~~~r.liveMask = r.resetValue &&& ~~~r.liveMask

/-- No operation is in progress: the engines hold nothing (10_state.md R43, 44_transmit.md R261). -/
abbrev Quiet (s : State) : Prop := s.bus = Bus.idle ∧ s.tx = TxAsm.fresh ∧ s.rx = none

/-- Guest memory is in its canonical form. -/
abbrev MemInv (s : State) : Prop := Memory.wf s.mem = true

/-- The state of the block and of its environment between two operations. -/
abbrev SafeState (s : State) : Prop := IrqInv s ∧ RegInv s ∧ Quiet s ∧ MemInv s

/-- What a dword write leaves in a register whose write mask is `wmask` (40_dispatcher.md R134). -/
def storedValue (old wmask wv : Word) (be : BitVec 4) : Word :=
  (old &&& ~~~(wmask &&& byteMask be)) ||| (wv &&& wmask &&& byteMask be)

/-- `n` steps of the machine. -/
def runSteps : Nat → State → Result
  | 0, s => .next s
  | n + 1, s =>
    match step s with
    | .next t => runSteps n t
    | .fault r => .fault r
    | .refused r => .refused r

/-- The frames sent, in order, among port events. -/
def sentFrames : List PortEvent → List (List Byte)
  | [] => []
  | .send f :: rest => f :: sentFrames rest
  | .response _ _ :: rest => sentFrames rest
  | .memRead _ _ _ :: rest => sentFrames rest
  | .memWrite _ _ _ :: rest => sentFrames rest
  | .irq _ :: rest => sentFrames rest
  | .raised _ :: rest => sentFrames rest

/-- The frames that buffers with their end-of-packet flags stand for, after the bytes `acc` of a packet begun: the buffers of
a packet concatenated, in order; an empty packet is no frame and a packet without an end is none (44_transmit.md R255, R257,
R261). -/
def groupPackets (acc : List Byte) : List (Bool × List Byte) → List (List Byte)
  | [] => []
  | (eop, b) :: rest =>
    if eop then (if (acc ++ b).isEmpty then groupPackets [] rest else (acc ++ b) :: groupPackets [] rest)
    else groupPackets (acc ++ b) rest

end Sys2Proof.Machine
end

