-- ==== Sys2Proof/Certificates/Slice0/Obligations.lean ====
section
/-! DEFINITION. The statements for the provers. Each docstring names the rule of spec/ it formalises. -/

section

open Sys2Proof Sys2Proof.Machine

/-- 30_encoding.md, the encodings of accesses, commands and descriptors: no bit of an operand is lost. -/
def Obligations.DecodeEncodeRoundTrip : Prop :=
  ∀ i : Instr, i.wf = true → decode (encode i) = .ok [i]

/-- 30_encoding.md R90, R96, R100, R103, R104, R106 and 10_state.md R18, R19, on a few words. -/
def Obligations.DecodeReadsWrittenWords : Prop :=
  decode (.aw 0x02000008#32 0#64) = .ok [.rdStatus] ∧
    decode (.aw 0x820000C8#32 0x84#64) = .ok [.wrIcs 0x84#32 0b1111#4] ∧
    decode (.aw 0x800000D1#32 0x02#64) = .ok [.wrIms 0x200#32 0b0010#4] ∧
    decode (.aw 0x83003800#32 0x0000000112345670#64) =
      .ok [.wrTdbal 0x12345670#32 0b1111#4, .wrTdbah 0x1#32 0b1111#4] ∧
    decode (.aw 0x02005400#32 0#64) = .ok [.rdUnmapped 0x5400#24] ∧
    decode (.aw 0x02020000#32 0#64) = .ok [.accessFault .outOfRange ⟨.read, 0x20000, 4, 0#64⟩] ∧
    decode (.mdicmd 0x08210000#32) = .ok [.mdicRead ⟨false, 1#5, 0#16⟩] ∧
    decode (.eecmd 0xABCD3F01#32) = .ok [.eerdStart 0x3F#8 0xABCD#16] ∧
    decode (.txdesc [0x00, 0x10, 0, 0, 0, 0, 0, 0, 0x40, 0x00, 0x00, 0x09, 0, 0, 0, 0]) =
      .ok [.txdLegacy ⟨0x1000#64, 64#16, 0#8, true, false, false, true, false, false, false, 0#4, 0#4, 0#8, 0#16⟩] ∧
    decode (.rxdesc [0x00, 0x00, 0x03, 0, 0, 0, 0, 0, 0, 0, 0, 0, 0, 0, 0, 0]) =
      .ok [.rxd ⟨0x30000#64, 0#16, 0#16, 0#8, 0#8, 0#16⟩]

/-- 30_encoding.md R99, descriptor kind decode. -/
def Obligations.TransmitDescriptorKinds : Prop :=
  ∀ d : List Byte, d.length = 16 →
    (descInt d).getLsbD 93 = (byteAt d 11).getLsbD 5 ∧
    (descInt d).extractLsb' 84 4 = (byteAt d 10).extractLsb' 4 4 ∧
    ((byteAt d 11).getLsbD 5 = false → ∃ x, decode (.txdesc d) = .ok [.txdLegacy x]) ∧
    ((byteAt d 11).getLsbD 5 = true → (byteAt d 10).extractLsb' 4 4 = 0#4 →
      ∃ x, decode (.txdesc d) = .ok [.txdContext x]) ∧
    ((byteAt d 11).getLsbD 5 = true → (byteAt d 10).extractLsb' 4 4 = 1#4 →
      ∃ x, decode (.txdesc d) = .ok [.txdData x]) ∧
    ((byteAt d 11).getLsbD 5 = true → 2 ≤ ((byteAt d 10).extractLsb' 4 4).toNat →
      ∃ x, decode (.txdesc d) = .ok [.txdReserved x])

/-- 30_encoding.md R100, R101, R103, R104, R105, R106, the layout tables, byte by byte. -/
def Obligations.DescriptorLayouts : Prop :=
  ∀ b0 b1 b2 b3 b4 b5 b6 b7 b8 b9 b10 b11 b12 b13 b14 b15 : Byte,
    (b11.getLsbD 5 = false →
      decode (.txdesc [b0, b1, b2, b3, b4, b5, b6, b7, b8, b9, b10, b11, b12, b13, b14, b15]) =
        .ok [.txdLegacy
          { addr := b7 ++ b6 ++ b5 ++ b4 ++ b3 ++ b2 ++ b1 ++ b0, length := b9 ++ b8, cso := b10
            eop := b11.getLsbD 0, ifcs := b11.getLsbD 1, ic := b11.getLsbD 2, rs := b11.getLsbD 3
            rps := b11.getLsbD 4, vle := b11.getLsbD 6, ide := b11.getLsbD 7
            sta := b12.extractLsb' 0 4, rsv := b12.extractLsb' 4 4, css := b13, special := b15 ++ b14 }]) ∧
    (b11.getLsbD 5 = true → b10.extractLsb' 4 4 = 0#4 →
      decode (.txdesc [b0, b1, b2, b3, b4, b5, b6, b7, b8, b9, b10, b11, b12, b13, b14, b15]) =
        .ok [.txdContext
          { ipcss := b0, ipcso := b1, ipcse := b3 ++ b2, tucss := b4, tucso := b5, tucse := b7 ++ b6
            paylen := b10.extractLsb' 0 4 ++ b9 ++ b8
            tcp := b11.getLsbD 0, ip := b11.getLsbD 1, tse := b11.getLsbD 2, rs := b11.getLsbD 3
            rsv4 := b11.getLsbD 4, rsv6 := b11.getLsbD 6, ide := b11.getLsbD 7
            sta := b12.extractLsb' 0 4, rsv := b12.extractLsb' 4 4, hdrlen := b13, mss := b15 ++ b14 }]) ∧
    (b11.getLsbD 5 = true → b10.extractLsb' 4 4 = 1#4 →
      decode (.txdesc [b0, b1, b2, b3, b4, b5, b6, b7, b8, b9, b10, b11, b12, b13, b14, b15]) =
        .ok [.txdData
          { addr := b7 ++ b6 ++ b5 ++ b4 ++ b3 ++ b2 ++ b1 ++ b0
            dtalen := b10.extractLsb' 0 4 ++ b9 ++ b8
            eop := b11.getLsbD 0, ifcs := b11.getLsbD 1, tse := b11.getLsbD 2, rs := b11.getLsbD 3
            rps := b11.getLsbD 4, vle := b11.getLsbD 6, ide := b11.getLsbD 7
            sta := b12.extractLsb' 0 4, rsv := b12.extractLsb' 4 4, popts := b13, special := b15 ++ b14 }]) ∧
    (b11.getLsbD 5 = true → 2 ≤ (b10.extractLsb' 4 4).toNat →
      decode (.txdesc [b0, b1, b2, b3, b4, b5, b6, b7, b8, b9, b10, b11, b12, b13, b14, b15]) =
        .ok [.txdReserved
          { low := b10.extractLsb' 0 4 ++ b9 ++ b8 ++ b7 ++ b6 ++ b5 ++ b4 ++ b3 ++ b2 ++ b1 ++ b0
            dtyp := b10.extractLsb' 4 4
            eop := b11.getLsbD 0, b1 := b11.getLsbD 1, b2 := b11.getLsbD 2, rs := b11.getLsbD 3
            b4 := b11.getLsbD 4, b6 := b11.getLsbD 6, b7 := b11.getLsbD 7
            sta := b12.extractLsb' 0 4, rsv := b12.extractLsb' 4 4, high := b15 ++ b14 ++ b13 }]) ∧
    decode (.rxdesc [b0, b1, b2, b3, b4, b5, b6, b7, b8, b9, b10, b11, b12, b13, b14, b15]) =
      .ok [.rxd
        { addr := b7 ++ b6 ++ b5 ++ b4 ++ b3 ++ b2 ++ b1 ++ b0, length := b9 ++ b8, csum := b11 ++ b10
          status := b12, errors := b13, special := b15 ++ b14 }]

/-- 30_encoding.md R92, the table, row by row. -/
def Obligations.AccessesAreNormalised : Prop :=
  ∀ acc : Access, checkAccess acc.off acc.width = none →
    (acc.width = 1 → ∃ wv be, decodeAccess acc = [dwordInstr acc.dir ⟨acc.off / 4 * 4, wv, be⟩] ∧
      wv.toNat = acc.wdata.toNat % 2 ^ 8 * 2 ^ (8 * (acc.off % 4)) ∧ be.toNat = 0b0001 * 2 ^ (acc.off % 4)) ∧
    (acc.width = 2 → ∃ wv be, decodeAccess acc = [dwordInstr acc.dir ⟨acc.off / 4 * 4, wv, be⟩] ∧
      wv.toNat = acc.wdata.toNat % 2 ^ 16 * 2 ^ (8 * (acc.off % 4)) ∧ be.toNat = 0b0011 * 2 ^ (acc.off % 4) ∧
      (acc.off % 4 = 0 ∨ acc.off % 4 = 2)) ∧
    (acc.width = 4 → ∃ wv, decodeAccess acc = [dwordInstr acc.dir ⟨acc.off, wv, 0b1111#4⟩] ∧
      wv.toNat = acc.wdata.toNat % 2 ^ 32) ∧
    (acc.width = 8 → ∃ lo hi,
      decodeAccess acc =
        [dwordInstr acc.dir ⟨acc.off, lo, 0b1111#4⟩, dwordInstr acc.dir ⟨acc.off + 4, hi, 0b1111#4⟩] ∧
      lo.toNat = acc.wdata.toNat % 2 ^ 32 ∧ hi.toNat = acc.wdata.toNat / 2 ^ 32)

/-- 40_dispatcher.md R131. -/
def Obligations.AccessChecksInOrder : Prop :=
  ∀ acc : Access,
    (¬(acc.width = 1 ∨ acc.width = 2 ∨ acc.width = 4 ∨ acc.width = 8) →
      decodeAccess acc = [.accessFault .badWidth acc]) ∧
    ((acc.width = 1 ∨ acc.width = 2 ∨ acc.width = 4 ∨ acc.width = 8) →
      (0x20000 < acc.off + acc.width → decodeAccess acc = [.accessFault .outOfRange acc]) ∧
      (acc.off + acc.width ≤ 0x20000 → acc.off % acc.width ≠ 0 →
        decodeAccess acc = [.accessFault .misaligned acc]) ∧
      (acc.off + acc.width ≤ 0x20000 → acc.off % acc.width = 0 →
        checkAccess acc.off acc.width = none ∧ ∀ c a, Instr.accessFault c a ∉ decodeAccess acc))

/-- 40_dispatcher.md R132. -/
def Obligations.FaultingAccessChangesNothing : Prop :=
  ∀ (s : State) (acc : Access) (c : AccessCause) (rest : List Input),
    exec (.accessFault c acc) s =
      .next { s with bus := { reads := [], fault := true }, out := s.out ++ [.raised (.access c)] } ∧
    (s.inbox = .op (.access acc) :: rest → checkAccess acc.off acc.width = some c →
      step s =
        .next { s with
          inbox := rest, bus := Bus.idle, out := s.out ++ [.raised (.access c), .response 0#64 true] })

/-- 40_dispatcher.md R136. -/
def Obligations.UnmappedOffsetsReadZeroAndIgnoreWrites : Prop :=
  ∀ (s : State) (off : Nat) (wdata : BitVec 64),
    off % 4 = 0 → off + 4 ≤ 0x20000 → (∀ r ∈ Reg.all, r.offset ≠ off) →
    decode (.access ⟨.read, off, 4, wdata⟩) = .ok [.rdUnmapped (BitVec.ofNat 24 off)] ∧
    decode (.access ⟨.write, off, 4, wdata⟩) =
      .ok [.wrUnmapped (BitVec.ofNat 24 off) (wdata.extractLsb' 0 32) 0b1111#4] ∧
    ∀ a wv be,
      exec (.rdUnmapped a) s = .next { s with bus := { s.bus with reads := s.bus.reads ++ [0x00000000#32] } } ∧
      exec (.wrUnmapped a wv be) s = .next s

/-- 40_dispatcher.md R133 and the 22 read rules of 41, 42 and 43. -/
def Obligations.DwordReads : Prop :=
  ∀ s : State,
    let answers (i : Instr) (v : Word) : Prop :=
      exec i s = .next { s with bus := { s.bus with reads := s.bus.reads ++ [v] } }
    answers .rdCtrl s.regs.ctrl ∧
    answers .rdStatus 0x00000083#32 ∧
    answers .rdEerd (s.regs.eerd ||| ((eeData s.mac (s.regs.eerd.extractLsb' 8 8)).setWidth 32 <<< 16)) ∧
    answers .rdMdic s.regs.mdic ∧
    answers .rdIcr s.regs.icr ∧
    answers .rdItr (s.regs.itr &&& 0x0000FFFF#32) ∧
    answers .rdIcs 0#32 ∧
    answers .rdIms s.regs.ims ∧
    answers .rdImc 0#32 ∧
    answers .rdRctl s.regs.rctl ∧
    answers .rdTctl s.regs.tctl ∧
    answers .rdRdbal s.regs.rdbal ∧
    answers .rdRdbah s.regs.rdbah ∧
    answers .rdRdlen s.regs.rdlen ∧
    answers .rdRdh (s.regs.rdh &&& 0x0000FFFF#32) ∧
    answers .rdRdt (s.regs.rdt &&& 0x0000FFFF#32) ∧
    answers .rdTdbal s.regs.tdbal ∧
    answers .rdTdbah s.regs.tdbah ∧
    answers .rdTdlen s.regs.tdlen ∧
    answers .rdTdh (s.regs.tdh &&& 0x0000FFFF#32) ∧
    answers .rdTdt (s.regs.tdt &&& 0x0000FFFF#32) ∧
    answers .rdRxcsum (s.regs.rxcsum &&& 0x000003FF#32)

/-- 20_memory.md R67 with R61 and R65, 30_encoding.md R94: the response seen byte by byte. -/
def Obligations.ReadAccessAnswersAndChangesNothing : Prop :=
  ∀ (s : State) (acc : Access) (rest : List Input),
    s.inbox = .op (.access acc) :: rest → acc.dir = .read →
    (checkAccess acc.off acc.width = none →
      ∃ rd : BitVec 64,
        step s = .next { s with inbox := rest, bus := Bus.idle, out := s.out ++ [.response rd false] } ∧
        (∀ i, i < acc.width →
          rd.extractLsb' (8 * i) 8 =
            (match regAt ((acc.off + i) / 4 * 4) with
            | some r => (dwRead s r).extractLsb' (8 * ((acc.off + i) % 4)) 8
            | none => 0#8)) ∧
        (∀ i, acc.width ≤ i → i < 8 → rd.extractLsb' (8 * i) 8 = 0#8)) ∧
    ∀ c, checkAccess acc.off acc.width = some c →
      step s =
        .next { s with
          inbox := rest, bus := Bus.idle, out := s.out ++ [.raised (.access c), .response 0#64 true] }

/-- 40_dispatcher.md R134 on the registers without a hook that does more (RDT: 41_control_regs.md R172). -/
def Obligations.StoreOnlyWrites : Prop :=
  (∀ (be : BitVec 4) (k : Nat), k < 32 → (byteMask be).getLsbD k = be.getLsbD (k / 8)) ∧
    ∀ (s : State) (wv : Word) (be : BitVec 4),
      exec (.wrRctl wv be) s =
        .next { s with regs := { s.regs with rctl := storedValue s.regs.rctl 0xFFFFFFFF#32 wv be } } ∧
      exec (.wrTctl wv be) s =
        .next { s with regs := { s.regs with tctl := storedValue s.regs.tctl 0xFFFFFFFF#32 wv be } } ∧
      exec (.wrRxcsum wv be) s =
        .next { s with regs := { s.regs with rxcsum := storedValue s.regs.rxcsum 0x000003FF#32 wv be } } ∧
      exec (.wrRdbal wv be) s =
        .next { s with regs := { s.regs with rdbal := storedValue s.regs.rdbal 0xFFFFFFF0#32 wv be } } ∧
      exec (.wrRdbah wv be) s =
        .next { s with regs := { s.regs with rdbah := storedValue s.regs.rdbah 0xFFFFFFFF#32 wv be } } ∧
      exec (.wrRdlen wv be) s =
        .next { s with regs := { s.regs with rdlen := storedValue s.regs.rdlen 0x000FFFF0#32 wv be } } ∧
      exec (.wrRdt wv be) s =
        .next { s with regs := { s.regs with rdt := storedValue s.regs.rdt 0x0000FFFF#32 wv be } } ∧
      exec (.wrTdbal wv be) s =
        .next { s with regs := { s.regs with tdbal := storedValue s.regs.tdbal 0xFFFFFFF0#32 wv be } } ∧
      exec (.wrTdbah wv be) s =
        .next { s with regs := { s.regs with tdbah := storedValue s.regs.tdbah 0xFFFFFFFF#32 wv be } } ∧
      exec (.wrTdlen wv be) s =
        .next { s with regs := { s.regs with tdlen := storedValue s.regs.tdlen 0x000FFFF0#32 wv be } } ∧
      exec (.wrItr wv be) s =
        .next { s with regs := { s.regs with itr := storedValue s.regs.itr 0x0000FFFF#32 wv be } }

/-- 41_control_regs.md R153 and R181, with R167 and 70_reset_and_hazards.md R392. -/
def Obligations.ReadOnlyRegistersDiscardWrites : Prop :=
  ∀ (s : State) (wv : Word) (be : BitVec 4),
    exec (.wrStatus wv be) s = .next s ∧ exec (.wrRdh wv be) s = .next s ∧ exec (.wrTdh wv be) s = .next s

/-- 40_dispatcher.md R137, the law and the registers it holds for. -/
def Obligations.RoundTripLaw : Prop :=
  ∀ (s : State) (V : Word) (r : Reg),
    r ∈ [Reg.itr, .rctl, .tctl, .rdbal, .rdbah, .rdlen, .rdt, .tdbal, .tdbah, .tdlen, .tdt, .rxcsum] ∨
      (r = .ctrl ∧ V.getLsbD 26 = false) →
    ∃ t, exec (wrInstr V 0b1111#4 r) s = .next t ∧
      dwRead t r = ((V &&& r.wmask) ||| (s.reg r &&& ~~~r.wmask)) &&& r.rmask

/-- 20_memory.md R68, idempotency of writes. -/
def Obligations.RepeatedWriteChangesNothing : Prop :=
  ∀ (s : State) (r : Reg) (wv : Word) (be : BitVec 4),
    ∃ t, exec (wrInstr wv be r) s = .next t ∧ exec (wrInstr wv be r) t = .next t

/-- 10_state.md R50, 70_reset_and_hazards.md R380, 41_control_regs.md R151. -/
def Obligations.ControlWriteAndReset : Prop :=
  ∀ (s : State) (wv : Word) (be : BitVec 4),
    let afterReset : State :=
      { s with
        regs :=
          { ctrl := 0#32, eerd := 0#32, mdic := 0#32, icr := 0#32, itr := 0#32, ims := 0#32, rctl := 0#32
            tctl := 0#32, rdbal := 0#32, rdbah := 0#32, rdlen := 0#32, rdh := 0#32, rdt := 0#32, tdbal := 0#32
            tdbah := 0#32, tdlen := 0#32, tdh := 0#32, tdt := 0#32, rxcsum := 0#32 }
        irqLine := false
        itrHoldoff := 0#16
        txctx :=
          { ipcss := 0, ipcso := 0, ipcse := 0, tucss := 0, tucso := 0, tucse := 0, paylen := 0, hdrlen := 0, mss := 0
            tcp := false, ip4 := false, ctse := false }
        rxDropCount := 0#32
        phy0 := 0x1140#16
        out := s.out ++ (if s.irqLine then [.irq false] else []) }
    (wv.getLsbD 26 = false →
      exec (.wrCtrl wv be) s =
        .next { s with regs := { s.regs with ctrl := storedValue s.regs.ctrl 0xFBFFFFFF#32 wv be } }) ∧
    (wv.getLsbD 26 = true → exec (.wrCtrl wv be) s = .next afterReset) ∧
    exec .resetPoweron s = .next afterReset

/-- 10_state.md R50 meets 60_exceptions.md R348 and 10_state.md R11; the environment's part of State.reset is log
entries 1, 3, 4 and 5. -/
def Obligations.ResetStateIsSafe : Prop :=
  SafeState State.reset

/-- 60_exceptions.md R346 and R347. -/
def Obligations.EvaluateAndRaiseCause : Prop :=
  ∀ (s : State) (bits : Word),
    (s.regs.icr &&& s.regs.ims = 0#32 → s.irqLine = true →
      evaluate s = { s with irqLine := false, out := s.out ++ [.irq false] }) ∧
    (s.regs.icr &&& s.regs.ims = 0#32 → s.irqLine = false → evaluate s = s) ∧
    (s.regs.icr &&& s.regs.ims ≠ 0#32 → s.irqLine = false → s.itrHoldoff = 0#16 →
      evaluate s =
        { s with irqLine := true, itrHoldoff := s.regs.itr.extractLsb' 0 16, out := s.out ++ [.irq true] }) ∧
    (s.regs.icr &&& s.regs.ims ≠ 0#32 → s.irqLine = false → s.itrHoldoff ≠ 0#16 → evaluate s = s) ∧
    (s.regs.icr &&& s.regs.ims ≠ 0#32 → s.irqLine = true → evaluate s = s) ∧
    raiseCause bits s = evaluate { s with regs := { s.regs with icr := s.regs.icr ||| bits } }

/-- 42_interrupt_regs.md R191, R195, R197, R199. -/
def Obligations.InterruptRegisterWrites : Prop :=
  ∀ (s : State) (wv : Word) (be : BitVec 4),
    exec (.wrIcr wv be) s = .next (evaluate { s with regs := { s.regs with icr := s.regs.icr &&& ~~~wv } }) ∧
    exec (.wrIcs wv be) s = .next (evaluate { s with regs := { s.regs with icr := s.regs.icr ||| wv } }) ∧
    exec (.wrIms wv be) s = .next (evaluate { s with regs := { s.regs with ims := s.regs.ims ||| wv } }) ∧
    exec (.wrImc wv be) s = .next (evaluate { s with regs := { s.regs with ims := s.regs.ims &&& ~~~wv } })

/-- 60_exceptions.md R352, the pseudocode of Tick. -/
def Obligations.TickCountsDownAndEvaluates : Prop :=
  ∀ s : State,
    (s.itrHoldoff = 0#16 → exec .timerTick s = .next s) ∧
    (s.itrHoldoff = 1#16 → exec .timerTick s = .next (evaluate { s with itrHoldoff := 0#16 })) ∧
    (1 < s.itrHoldoff.toNat → exec .timerTick s = .next { s with itrHoldoff := s.itrHoldoff - 1#16 })

/-- 60_exceptions.md R352, no starvation: "a holdoff loaded with `v` expires after exactly `v` ticks". -/
def Obligations.DeferredAssertionHappensAfterTheHoldoff : Prop :=
  ∀ (s : State) (n : Nat) (rest : List Input),
    irqWanted s = true → s.irqLine = false → s.itrHoldoff.toNat = n → 0 < n →
    s.inbox = List.replicate n (.op .tick) ++ rest →
    (∀ k, k < n → ∃ t, runSteps k s = .next t ∧ t.irqLine = false ∧ t.itrHoldoff.toNat = n - k) ∧
    runSteps n s =
      .next { s with
        inbox := rest, bus := Bus.idle, irqLine := true, itrHoldoff := s.regs.itr.extractLsb' 0 16
        out := s.out ++ [.irq true] }

/-- 60_exceptions.md R348, invariants 1 and 2. -/
def Obligations.StepKeepsTheLineInvariant : Prop :=
  (∀ (i : Instr) (s t : State), IrqInv s → exec i s = .next t → IrqInv t) ∧
    ∀ s t : State, IrqInv s → step s = .next t → IrqInv t

/-- 60_exceptions.md R348, its last sentence: with R.ITR = 0 the unqualified equivalence holds. -/
def Obligations.LineEqualsPendingWithoutCoalescing : Prop :=
  ∀ s t : State,
    s.regs.itr.extractLsb' 0 16 = 0#16 → s.itrHoldoff = 0#16 → s.irqLine = irqWanted s →
    step s = .next t → t.regs.itr.extractLsb' 0 16 = 0#16 → t.itrHoldoff = 0#16 ∧ t.irqLine = irqWanted t

/-- 10_state.md R11; which bits an engine or a hook writes is 10_state.md R12 and R16 to R37. -/
def Obligations.StepKeepsReservedBits : Prop :=
  Reg.all.Pairwise (fun a b => a.offset + 4 ≤ b.offset) ∧
    (∀ a, (∀ r ∈ Reg.all, r.offset ≠ a) → regAt a = none) ∧
    (∀ s t : State, RegInv s → step s = .next t → RegInv t) ∧
    ∀ s : State, RegInv s → ∀ r ∈ Reg.all, s.reg r &&& ~~~r.rmask = 0#32

/-- 10_state.md R43 and 60_exceptions.md R360: nothing of an operation outlives it. The canonical form is the model's
(log entry 3). -/
def Obligations.StepEndsQuietWithCanonicalMemory : Prop :=
  ∀ s t : State, Quiet s → MemInv s → step s = .next t → Quiet t ∧ MemInv t

/-- 60_exceptions.md R370 and 10_state.md R14, ownership by construction. -/
def Obligations.HeadsAndTailsHaveOneOwner : Prop :=
  ∀ (i : Instr) (s t : State), exec i s = .next t →
    let isReset : Prop := i = .resetPoweron ∨ ∃ wv be, i = .wrCtrl wv be ∧ wv.getLsbD 26 = true
    (t.regs.tdh ≠ s.regs.tdh → isReset ∨ ∃ wv be, i = .wrTdt wv be) ∧
    (t.regs.rdh ≠ s.regs.rdh → isReset ∨ ∃ f, i = .rxFrame f) ∧
    (t.regs.tdt ≠ s.regs.tdt → isReset ∨ ∃ wv be, i = .wrTdt wv be) ∧
    (t.regs.rdt ≠ s.regs.rdt → isReset ∨ ∃ wv be, i = .wrRdt wv be)

/-- 60_exceptions.md R347, 10_state.md R40 to R46, 43_eeprom_mdic.md R218, 20_memory.md R68: who writes what. -/
def Obligations.OnlyTheirWritersChangeThem : Prop :=
  ∀ (i : Instr) (s t : State), exec i s = .next t →
    let isReset : Prop := i = .resetPoweron ∨ ∃ wv be, i = .wrCtrl wv be ∧ wv.getLsbD 26 = true
    let isTxd : Prop :=
      (∃ d, i = .txdLegacy d) ∨ (∃ d, i = .txdContext d) ∨ (∃ d, i = .txdData d) ∨ (∃ d, i = .txdReserved d)
    let isMdi : Prop := (∃ wv be, i = .wrMdic wv be) ∨ (∃ c, i = .mdicRead c) ∨ (∃ c, i = .mdicWrite c) ∨
      ∃ op pa c, i = .mdicReserved op pa c
    t.mac = s.mac ∧ t.holes = s.holes ∧ t.inbox = s.inbox ∧
    (t.mem ≠ s.mem → (∃ wv be, i = .wrTdt wv be) ∨ isTxd ∨ (∃ d, i = .rxd d) ∨ ∃ f, i = .rxFrame f) ∧
    (sentFrames t.out ≠ sentFrames s.out → (∃ wv be, i = .wrTdt wv be) ∨ isTxd) ∧
    (t.irqLine ≠ s.irqLine ∨ t.itrHoldoff ≠ s.itrHoldoff →
      isReset ∨ (∃ wv be, i = .wrIcr wv be) ∨ (∃ wv be, i = .wrIcs wv be) ∨ (∃ wv be, i = .wrIms wv be) ∨
        (∃ wv be, i = .wrImc wv be) ∨ isMdi ∨ (∃ wv be, i = .wrTdt wv be) ∨ (∃ f, i = .rxFrame f) ∨
        i = .timerTick) ∧
    (t.txctx ≠ s.txctx → isReset ∨ (∃ wv be, i = .wrTdt wv be) ∨ ∃ d, i = .txdContext d) ∧
    (t.phy0 ≠ s.phy0 → isReset ∨ (∃ wv be, i = .wrMdic wv be) ∨ ∃ c, i = .mdicWrite c) ∧
    (t.rxDropCount ≠ s.rxDropCount → isReset ∨ ∃ f, i = .rxFrame f)

/-- 43_eeprom_mdic.md R216, R213, and R217 that follows from R216. -/
def Obligations.EepromContent : Prop :=
  ∀ mac : Mac,
    (eepromWord mac 0).toNat = mac.b0.toNat + 256 * mac.b1.toNat ∧
    (eepromWord mac 1).toNat = mac.b2.toNat + 256 * mac.b3.toNat ∧
    (eepromWord mac 2).toNat = mac.b4.toNat + 256 * mac.b5.toNat ∧
    (∀ n, 3 ≤ n → n ≤ 62 → eepromWord mac n = 0x0000#16) ∧
    eepromWord mac 63 = 0xBABA#16 - ((List.range 63).map (eepromWord mac)).foldl (· + ·) 0#16 ∧
    ((List.range 64).map (eepromWord mac)).foldl (· + ·) 0#16 = 0xBABA#16 ∧
    ∀ n : Byte, eeData mac n = if n.toNat < 64 then eepromWord mac n.toNat else 0x0000#16

/-- 43_eeprom_mdic.md R211. -/
def Obligations.EerdWriteStoresAddressAndDone : Prop :=
  ∀ (s : State) (wv : Word) (be : BitVec 4),
    let e := storedValue s.regs.eerd 0x0000FF00#32 wv be
    exec (.wrEerd wv be) s =
      .next { s with
        regs := { s.regs with
          eerd :=
            if be.getLsbD 0 then (if wv.getLsbD 0 then e ||| 0x10#32 else e &&& 0xFFFFFFEF#32) else e } }

/-- 43_eeprom_mdic.md R221. -/
def Obligations.MdicWriteRunsTheCommand : Prop :=
  ∀ (s : State) (wv : Word) (be : BitVec 4),
    let m := storedValue s.regs.mdic 0x2FFFFFFF#32 wv be
    let complete (v : Word) (u : State) : State :=
      let t : State := { u with regs := { u.regs with mdic := v } }
      if m.getLsbD 29 then raiseCause 0x00000200#32 t else t
    (be.getLsbD 3 = false → exec (.wrMdic wv be) s = .next { s with regs := { s.regs with mdic := m } }) ∧
    (be.getLsbD 3 = true →
      exec (.wrMdic wv be) s =
        .next
          (if m.extractLsb' 21 5 ≠ 1#5 then complete (m ||| 0x50000000#32) s
          else if m.extractLsb' 26 2 = 0b10#2 then
            complete
              ((((m &&& 0xFFFF0000#32) ||| (phyRead s (m.extractLsb' 16 5)).setWidth 32) &&& 0xBFFFFFFF#32)
                ||| 0x10000000#32) s
          else if m.extractLsb' 26 2 = 0b01#2 then
            complete ((m &&& 0xBFFFFFFF#32) ||| 0x10000000#32)
              (phyWrite (m.extractLsb' 16 5) (m.extractLsb' 0 16) s)
          else complete (m ||| 0x50000000#32) s))

/-- 43_eeprom_mdic.md R222, R224, R225. -/
def Obligations.PhyRegisters : Prop :=
  ∀ (s : State) (r : BitVec 5) (v : BitVec 16),
    phyRead s 0#5 = s.phy0 ∧ phyRead s 1#5 = 0x796D#16 ∧ phyRead s 2#5 = 0x0141#16 ∧ phyRead s 3#5 = 0x0C20#16 ∧
    (4 ≤ r.toNat → phyRead s r = 0x0000#16) ∧
    (v.getLsbD 15 = true → phyWrite 0#5 v s = { s with phy0 := 0x1140#16 }) ∧
    (v.getLsbD 15 = false → phyWrite 0#5 v s = { s with phy0 := v &&& 0x7DFF#16 }) ∧
    (r ≠ 0#5 → phyWrite r v s = s)

/-- 43_eeprom_mdic.md R211 and R221; log entry 9. -/
def Obligations.CommandRowsAreWhatTheHooksRun : Prop :=
  ∀ (s : State) (c : MdiFields) (op : BitVec 2) (pa : BitVec 5) (n : Byte) (data : BitVec 16),
    (∃ t, exec (.mdicRead c) s = .next t ∧ exec (.wrMdic (encodeMdi 0b10#2 1#5 c) 0b1111#4) s = .next t) ∧
    (∃ t, exec (.mdicWrite c) s = .next t ∧ exec (.wrMdic (encodeMdi 0b01#2 1#5 c) 0b1111#4) s = .next t) ∧
    (op = 0b00#2 ∨ op = 0b11#2 ∨ pa ≠ 1#5 →
      ∃ t, exec (.mdicReserved op pa c) s = .next t ∧ exec (.wrMdic (encodeMdi op pa c) 0b1111#4) s = .next t) ∧
    ∃ t, exec (.eerdStart n data) s = .next t ∧ exec (.wrEerd ((data ++ n) ++ 0x01#8) 0b1111#4) s = .next t

/-- 44_transmit.md R258 and R259. -/
def Obligations.TransmitWriteBack : Prop :=
  ∀ (s : State) (rs failed offerr : Bool) (rsv : BitVec 4),
    let a := txDescAddr s + 12#64
    let v : Byte := rsv ++ (if failed || offerr then 0x3#4 else 0x1#4)
    (rs = false → failed = false → offerr = false → finishDesc rs rsv failed offerr s = s) ∧
    (rs = true ∨ failed = true ∨ offerr = true →
      (mappable s.holes a 1 = true →
        finishDesc rs rsv failed offerr s =
          { s with
            tx := { s.tx with wantIrq := true }, mem := Memory.write s.mem a.toNat v
            out := s.out ++ [.memWrite a [v] true] }) ∧
      (mappable s.holes a 1 = false →
        finishDesc rs rsv failed offerr s =
          { s with
            tx := { s.tx with wantIrq := true }
            out := s.out ++ [.memWrite a [v] false, .raised (.dma .txWriteback)] }))

/-- 44_transmit.md R250, with R258 and R259. -/
def Obligations.ContextDescriptorLoadsTheContext : Prop :=
  ∀ (s : State) (d : ContextDesc),
    exec (.txdContext d) s =
      .next (finishDesc d.rs d.rsv false false
        { s with
          txctx :=
            { ipcss := d.ipcss, ipcso := d.ipcso, ipcse := d.ipcse, tucss := d.tucss, tucso := d.tucso
              tucse := d.tucse, paylen := d.paylen, hdrlen := d.hdrlen, mss := d.mss
              tcp := d.tcp, ip4 := d.ip, ctse := d.tse } })

/-- 44_transmit.md R254. -/
def Obligations.ReservedDescriptorFails : Prop :=
  ∀ (s : State) (d : ReservedDesc),
    exec (.txdReserved d) s =
      .next (finishDesc d.rs d.rsv true false
        { s with
          out := s.out ++ [.raised (.offload .txReservedKind)]
          tx :=
            if d.eop then { TxAsm.fresh with wantIrq := s.tx.wantIrq }
            else if s.tx.firstKind = none then
              { asm := [], poison := true, firstKind := some .legacy, pktTse := false, pktPopts := 0#8
                wantIrq := s.tx.wantIrq }
            else { s.tx with asm := [], poison := true } })

/-- 44_transmit.md R251, R252, R253 for a descriptor that does not end its packet. -/
def Obligations.BufferDescriptorsGather : Prop :=
  ∀ (s : State) (i : Instr) (p : TxAsm) (addr : Addr) (len : Nat) (rs : Bool) (rsv : BitVec 4),
    ((∃ d : LegacyDesc, i = .txdLegacy d ∧ d.eop = false ∧ addr = d.addr ∧ len = d.length.toNat ∧ rs = d.rs ∧
        rsv = d.rsv ∧
        p = if s.tx.firstKind = none then
            { s.tx with firstKind := some .legacy, pktTse := false, pktPopts := 0#8 } else s.tx) ∨
      ∃ d : DataDesc, i = .txdData d ∧ d.eop = false ∧ addr = d.addr ∧ len = d.dtalen.toNat ∧ rs = d.rs ∧
        rsv = d.rsv ∧
        p = if s.tx.firstKind = none then
            { s.tx with firstKind := some .data, pktTse := d.tse, pktPopts := d.popts } else s.tx) →
    (len = 0 → exec i s = .next (finishDesc rs rsv false false { s with tx := p })) ∧
    (len ≠ 0 → mappable s.holes addr len = false →
      exec i s =
        .next (finishDesc rs rsv true false
          { s with
            tx := { p with poison := true, asm := [] }
            out := s.out ++ [.memRead addr len false, .raised (.dma .txBuffer)] })) ∧
    (len ≠ 0 → mappable s.holes addr len = true → s.tx.poison = true →
      exec i s =
        .next (finishDesc rs rsv false false { s with tx := p, out := s.out ++ [.memRead addr len true] })) ∧
    (len ≠ 0 → mappable s.holes addr len = true → s.tx.poison = false → 65536 < s.tx.asm.length + len →
      exec i s =
        .next (finishDesc rs rsv true false
          { s with
            tx := { p with poison := true, asm := [] }
            out := s.out ++ [.memRead addr len true, .raised (.dma .txFrameOverflow)] })) ∧
    (len ≠ 0 → mappable s.holes addr len = true → s.tx.poison = false → s.tx.asm.length + len ≤ 65536 →
      exec i s =
        .next (finishDesc rs rsv false false
          { s with
            tx := { p with asm := s.tx.asm ++ Memory.readRange s.mem addr.toNat len }
            out := s.out ++ [.memRead addr len true] }))

/-- 44_transmit.md R251 to R257; 45_offload.md R282, R283, R284, R289. -/
def Obligations.EndOfPacketSendsTheFrame : Prop :=
  ∀ (s : State) (i : Instr) (p : TxAsm) (ic : Option (Byte × Byte)) (addr : Addr) (len : Nat) (rs : Bool)
    (rsv : BitVec 4),
    ((∃ d : LegacyDesc, i = .txdLegacy d ∧ d.eop = true ∧ addr = d.addr ∧ len = d.length.toNat ∧ rs = d.rs ∧
        rsv = d.rsv ∧ ic = (if d.ic then some (d.css, d.cso) else none) ∧
        p = if s.tx.firstKind = none then
            { s.tx with firstKind := some .legacy, pktTse := false, pktPopts := 0#8 } else s.tx) ∨
      ∃ d : DataDesc, i = .txdData d ∧ d.eop = true ∧ addr = d.addr ∧ len = d.dtalen.toNat ∧ rs = d.rs ∧
        rsv = d.rsv ∧ ic = none ∧
        p = if s.tx.firstKind = none then
            { s.tx with firstKind := some .data, pktTse := d.tse, pktPopts := d.popts } else s.tx) →
    let c := s.txctx
    let cleared : TxAsm := { TxAsm.fresh with wantIrq := s.tx.wantIrq }
    let checksums (f : List Byte) : List Byte × Bool :=
      let tu := if p.pktPopts.getLsbD 1 then csumInsert f c.tucss.toNat c.tucso.toNat c.tucse.toNat else (f, false)
      let ip :=
        if p.pktPopts.getLsbD 0 then csumInsert tu.1 c.ipcss.toNat c.ipcso.toNat c.ipcse.toNat else (tu.1, false)
      (ip.1, tu.2 || ip.2)
    let offload (f : List Byte) : List (List Byte) × Bool :=
      if p.firstKind = some .data then
        if p.pktTse then segment c p.pktPopts f else ([(checksums f).1], (checksums f).2)
      else
        match ic with
        | some (css, cso) => ([(csumInsert f css.toNat cso.toNat 0).1], (csumInsert f css.toNat cso.toNat 0).2)
        | none => ([f], false)
    let nothingSent (failed : Bool) (evs : List PortEvent) : State :=
      finishDesc rs rsv failed false { s with tx := cleared, out := s.out ++ evs }
    let sent (evs : List PortEvent) (f : List Byte) : State :=
      finishDesc rs rsv false (offload f).2
        { s with
          tx := cleared
          out := s.out ++ evs ++ (if (offload f).2 then [.raised (.offload .txOffload)] else []) ++
            (offload f).1.map .send }
    (len = 0 → s.tx.poison = true ∨ s.tx.asm = [] → exec i s = .next (nothingSent false [])) ∧
    (len = 0 → s.tx.poison = false → s.tx.asm ≠ [] → exec i s = .next (sent [] s.tx.asm)) ∧
    (len ≠ 0 → mappable s.holes addr len = false →
      exec i s = .next (nothingSent true [.memRead addr len false, .raised (.dma .txBuffer)])) ∧
    (len ≠ 0 → mappable s.holes addr len = true → s.tx.poison = true →
      exec i s = .next (nothingSent false [.memRead addr len true])) ∧
    (len ≠ 0 → mappable s.holes addr len = true → s.tx.poison = false → 65536 < s.tx.asm.length + len →
      exec i s = .next (nothingSent true [.memRead addr len true, .raised (.dma .txFrameOverflow)])) ∧
    (len ≠ 0 → mappable s.holes addr len = true → s.tx.poison = false → s.tx.asm.length + len ≤ 65536 →
      exec i s = .next (sent [.memRead addr len true] (s.tx.asm ++ Memory.readRange s.mem addr.toNat len)))

/-- 45_offload.md R281, R282, R284, R289. -/
def Obligations.LegacyChecksumInsertion : Prop :=
  ∀ (s : State) (d : LegacyDesc),
    d.eop = true → d.ic = true → d.length ≠ 0#16 → mappable s.holes d.addr d.length.toNat = true →
    s.tx.poison = false → s.tx.firstKind ≠ some .data → s.tx.asm.length + d.length.toNat ≤ 65536 →
    let f := s.tx.asm ++ Memory.readRange s.mem d.addr.toNat d.length.toNat
    let cleared : TxAsm := { TxAsm.fresh with wantIrq := s.tx.wantIrq }
    (d.css.toNat < f.length ∧ d.cso.toNat + 2 ≤ f.length →
      exec (.txdLegacy d) s =
        .next (finishDesc d.rs d.rsv false false
          { s with
            tx := cleared
            out := s.out ++
              [.memRead d.addr d.length.toNat true,
                .send (overwrite f d.cso.toNat (putBe16 (csumValue (f.drop d.css.toNat)).toNat))] })) ∧
    (¬(d.css.toNat < f.length ∧ d.cso.toNat + 2 ≤ f.length) →
      exec (.txdLegacy d) s =
        .next (finishDesc d.rs d.rsv false true
          { s with
            tx := cleared
            out := s.out ++
              [.memRead d.addr d.length.toNat true, .raised (.offload .txOffload), .send f] }))

/-- 44_transmit.md R243 to R258: what a descriptor's step may touch. -/
def Obligations.TransmitDescriptorFrame : Prop :=
  ∀ (s : State) (i : Instr),
    (∃ d, i = .txdLegacy d) ∨ (∃ d, i = .txdContext d) ∨ (∃ d, i = .txdData d) ∨ (∃ d, i = .txdReserved d) →
    ∃ t evs, exec i s = .next t ∧
      t = { s with tx := t.tx, txctx := t.txctx, mem := t.mem, out := s.out ++ evs } ∧
      ((¬∃ d, i = .txdContext d) → t.txctx = s.txctx) ∧
      ∀ k, k ≠ (txDescAddr s + 12#64).toNat → Memory.read t.mem k = Memory.read s.mem k

/-- 44_transmit.md R243 and R244. -/
def Obligations.UnfetchableDescriptorIsSkipped : Prop :=
  ∀ s : State,
    (mappable s.holes (txDescAddr s) 16 = true →
      ∃ i t, decode (.txdesc (Memory.readRange s.mem (txDescAddr s).toNat 16)) = .ok [i] ∧
        exec i { s with out := s.out ++ [.memRead (txDescAddr s) 16 true] } = .next t ∧ txStep s = t) ∧
    (mappable s.holes (txDescAddr s) 16 = false →
      txStep s =
        { s with
          tx := { TxAsm.fresh with wantIrq := s.tx.wantIrq }
          out := s.out ++ [.memRead (txDescAddr s) 16 false, .raised (.dma .txDescFetch)] })

/-- 44_transmit.md R242, the geometry guard. -/
def Obligations.UnusableTransmitRingDoesNothing : Prop :=
  ∀ (s : State) (wv : Word) (be : BitVec 4),
    let tdt := storedValue s.regs.tdt 0x0000FFFF#32 wv be
    let tail := (tdt.extractLsb' 0 16).toNat
    let nt := txCount s
    (nt = 0 ∨ nt ≤ txHead s ∨ nt ≤ tail) →
      exec (.wrTdt wv be) s = .next { s with regs := { s.regs with tdt := tdt } }

/-- 44_transmit.md R241 for one descriptor, with R260, R261, R262. -/
def Obligations.DrainOfOneDescriptor : Prop :=
  ∀ (s : State) (wv : Word) (be : BitVec 4),
    let tdt := storedValue s.regs.tdt 0x0000FFFF#32 wv be
    let tail := (tdt.extractLsb' 0 16).toNat
    let nt := txCount s
    txHead s < nt → tail < nt → tail = (txHead s + 1) % nt → 1 < nt →
      let u := txStep { s with regs := { s.regs with tdt := tdt }, tx := TxAsm.fresh }
      let v : State := { u with regs := { u.regs with tdh := BitVec.ofNat 32 tail }, tx := TxAsm.fresh }
      exec (.wrTdt wv be) s = .next (if u.tx.wantIrq then raiseCause 0x00000001#32 v else v)

/-- 44_transmit.md R241, R260, R261 and R262 for any number of descriptors, and R263, the postconditions of a drain.
-/
def Obligations.DrainHeadMeetsTail : Prop :=
  ∀ (s : State) (wv : Word) (be : BitVec 4),
    let tdt := storedValue s.regs.tdt 0x0000FFFF#32 wv be
    let tail := (tdt.extractLsb' 0 16).toNat
    let nt := txCount s
    let n := (tail + nt - txHead s) % nt
    let rounds (j : Nat) : State :=
      (List.range j).foldl
        (fun u k =>
          let v := txStep u
          { v with regs := { v.regs with tdh := BitVec.ofNat 32 ((txHead s + k + 1) % nt) } })
        { s with regs := { s.regs with tdt := tdt }, tx := TxAsm.fresh }
    let ended : State := { rounds n with tx := TxAsm.fresh }
    txHead s < nt → tail < nt →
    exec (.wrTdt wv be) s = .next (if (rounds n).tx.wantIrq then raiseCause 0x00000001#32 ended else ended) ∧
    ((rounds n).tx.wantIrq = true ↔
      ∃ j, j < n ∧
        (txStep { rounds j with tx := { (rounds j).tx with wantIrq := false } }).tx.wantIrq = true) ∧
    ∃ t evs, exec (.wrTdt wv be) s = .next t ∧
      t = { s with
        regs := t.regs, irqLine := t.irqLine, itrHoldoff := t.itrHoldoff, txctx := t.txctx, tx := TxAsm.fresh
        mem := t.mem, out := s.out ++ evs } ∧
      ((rounds n).tx.wantIrq = false →
        t.regs = { s.regs with tdt := tdt, tdh := BitVec.ofNat 32 tail } ∧ t.irqLine = s.irqLine ∧
          t.itrHoldoff = s.itrHoldoff) ∧
      ((rounds n).tx.wantIrq = true →
        t.regs =
          { s.regs with tdt := tdt, tdh := BitVec.ofNat 32 tail, icr := s.regs.icr ||| 0x00000001#32 }) ∧
      ∀ k, (∀ j, j < n → k ≠ (descAddr (tdba s) ((txHead s + j) % nt) + 12#64).toNat) →
        Memory.read t.mem k = Memory.read s.mem k

/-- 44_transmit.md R255: "draining produces exactly the frames implied by concatenating descriptor buffers grouped by
end-of-packet flags, in ring order". -/
def Obligations.DrainSendsThePackets : Prop :=
  ∀ (s : State) (wv : Word) (be : BitVec 4) (ds : List LegacyDesc),
    let tdt := storedValue s.regs.tdt 0x0000FFFF#32 wv be
    let tail := (tdt.extractLsb' 0 16).toNat
    let nt := txCount s
    txHead s < nt → tail < nt → ds.length = (tail + nt - txHead s) % nt →
    (∀ j d, ds[j]? = some d →
      mappable s.holes (descAddr (tdba s) ((txHead s + j) % nt)) 16 = true ∧
      decodeTxd (descInt (Memory.readRange s.mem (descAddr (tdba s) ((txHead s + j) % nt)).toNat 16)) = .legacy d ∧
      d.rs = false ∧ d.ic = false ∧ (d.length ≠ 0#16 → mappable s.holes d.addr d.length.toNat = true)) →
    (∀ j n, j + n < ds.length → (∀ d ∈ (ds.drop j).take n, d.eop = false) →
      (((ds.drop j).take (n + 1)).map fun d => d.length.toNat).sum ≤ 65536) →
    ∃ t, exec (.wrTdt wv be) s = .next t ∧
      t = { s with
        regs := { s.regs with tdt := tdt, tdh := BitVec.ofNat 32 tail }, tx := TxAsm.fresh, out := t.out } ∧
      sentFrames t.out =
        sentFrames s.out ++
          groupPackets [] (ds.map fun d => (d.eop, Memory.readRange s.mem d.addr.toNat d.length.toNat))

/-- 45_offload.md R280. -/
def Obligations.OnesComplementSum : Prop :=
  (∀ acc : Nat, foldSum acc = if 0xFFFF < acc then foldSum (acc % 65536 + acc / 65536) else acc) ∧
    wordSum [] = 0 ∧ (∀ hi : Byte, wordSum [hi] = 256 * hi.toNat) ∧
    (∀ (hi lo : Byte) (rest : List Byte), wordSum (hi :: lo :: rest) = 256 * hi.toNat + lo.toNat + wordSum rest) ∧
    ocSum [] = 0 ∧
    ∀ s : List Byte, ocSum s = foldSum (wordSum s) ∧ ocSum s ≤ 0xFFFF ∧ ocSum s % 65535 = wordSum s % 65535 ∧
      (ocSum s = 0 ↔ wordSum s = 0)

/-- 45_offload.md R281. -/
def Obligations.ChecksumInsertion : Prop :=
  ∀ (f : List Byte) (css cso cse : Nat),
    let stop := if cse ≠ 0 ∧ cse < f.length then cse + 1 else f.length
    let c := 0xFFFF - ocSum ((f.take stop).drop css)
    (¬(css < stop ∧ cso + 2 ≤ f.length) → csumInsert f css cso cse = (f, true)) ∧
    (css < stop ∧ cso + 2 ≤ f.length →
      ∃ g, csumInsert f css cso cse = (g, false) ∧ g.length = f.length ∧
        be16 g cso = (if c = 0 then 0xFFFF else c) ∧
        ∀ k, k ≠ cso → k ≠ cso + 1 → byteAt g k = byteAt f k)

/-- 45_offload.md R281: the checksum stored is the one a receiver verifies (46_receive.md R314, R317). -/
def Obligations.InsertedChecksumVerifies : Prop :=
  ∀ (f : List Byte) (css cso cse : Nat),
    let stop := if cse ≠ 0 ∧ cse < f.length then cse + 1 else f.length
    css ≤ cso → cso + 2 ≤ stop → (cso - css) % 2 = 0 → byteAt f cso = 0#8 → byteAt f (cso + 1) = 0#8 →
    ∃ g, csumInsert f css cso cse = (g, false) ∧ ocSum ((g.take stop).drop css) = 0xFFFF

/-- 45_offload.md R285 and R286. -/
def Obligations.SegmentationKeepsThePayload : Prop :=
  ∀ (c : TxCtx) (popts : Byte) (f : List Byte),
    let H := c.hdrlen.toNat
    let M := c.mss.toNat
    let wellFormed : Prop :=
      1 ≤ M ∧ (1 ≤ H ∧ H ≤ f.length) ∧ c.ipcss.toNat + 6 ≤ H ∧
        (c.tcp = true → c.tucss.toNat + 14 ≤ H) ∧ (c.tcp = false → c.tucss.toNat + 6 ≤ H) ∧
        (popts.getLsbD 1 = true → c.tucso.toNat + 2 ≤ H) ∧ (popts.getLsbD 0 = true → c.ipcso.toNat + 2 ≤ H)
    (¬wellFormed → segment c popts f = ([f], true)) ∧
    (wellFormed →
      (segment c popts f).1.length = max 1 ((f.length - H + M - 1) / M) ∧
      (∀ k g, (segment c popts f).1[k]? = some g → g.length = H + min M (f.length - H - k * M)) ∧
      ((segment c popts f).1.map fun g => g.drop H).flatten = f.drop H)

/-- 45_offload.md R286, R287, R288; the modulus of the IPv6 payload length is log entry 15. -/
def Obligations.SegmentHeaderFields : Prop :=
  ∀ (c : TxCtx) (popts : Byte) (f : List Byte),
    let H := c.hdrlen.toNat
    let M := c.mss.toNat
    let i := c.ipcss.toNat
    let t := c.tucss.toNat
    let o := c.tucso.toNat
    let nseg := max 1 ((f.length - H + M - 1) / M)
    let checksums (h : List Byte) : List Byte × Bool :=
      let tu := if popts.getLsbD 1 then csumInsert h t o c.tucse.toNat else (h, false)
      let ip := if popts.getLsbD 0 then csumInsert tu.1 i c.ipcso.toNat c.ipcse.toNat else (tu.1, false)
      (ip.1, tu.2 || ip.2)
    segmentValid c popts f.length = true → i + 6 ≤ t →
    (popts.getLsbD 1 = true → t + (if c.tcp then 14 else 6) ≤ o) →
    ∃ hs : List (List Byte), hs.length = nseg ∧
      segment c popts f = (hs.map fun h => (checksums h).1, hs.any fun h => (checksums h).2) ∧
      ∀ k h, hs[k]? = some h →
        let b := f.take H ++ ((f.drop H).drop (k * M)).take M
        h.length = b.length ∧
        (c.ip4 = true →
          be16 h (i + 2) = (h.length - i) % 65536 ∧ be16 h (i + 4) = (be16 f (i + 4) + k) % 65536) ∧
        (c.ip4 = false → (be16 h (i + 4) + i + 40) % 65536 = h.length % 65536) ∧
        (c.tcp = true →
          be32 h (t + 4) = (be32 f (t + 4) + k * M) % 2 ^ 32 ∧
          byteAt h (t + 13) = (if k + 1 < nseg then byteAt f (t + 13) &&& 0xF6#8 else byteAt f (t + 13))) ∧
        (c.tcp = false → be16 h (t + 4) = (h.length - t) % 65536) ∧
        (popts.getLsbD 1 = true → be16 h o = foldSum (be16 f o + (h.length - t))) ∧
        ∀ m, (m < i + (if c.ip4 then 2 else 4) ∨ i + 6 ≤ m) →
          (m < t + 4 ∨ t + (if c.tcp then 8 else 6) ≤ m) → (c.tcp = true → m ≠ t + 13) →
          (popts.getLsbD 1 = true → m < o ∨ o + 2 ≤ m) → byteAt h m = byteAt b m

/-- 46_receive.md R302, the table. -/
def Obligations.ReceiveBufferSizes : Prop :=
  ∀ rctl : Word,
    rxBufSize rctl =
      (match rctl.getLsbD 25, (rctl.extractLsb' 16 2).toNat with
      | false, 0 => 2048
      | false, 1 => 1024
      | false, 2 => 512
      | false, _ => 256
      | true, 0 => 2048
      | true, 1 => 16384
      | true, 2 => 8192
      | true, _ => 4096)

/-- 46_receive.md R304, with the conditions of R301 and R303. -/
def Obligations.FrameWithoutAFreeDescriptorIsDropped : Prop :=
  ∀ (s : State) (frame : List Byte),
    rxCount s = 0 ∨ rxCount s ≤ rxHead s ∨ rxCount s ≤ rxTail s ∨ rxHead s = rxTail s →
    ∃ n : BitVec 32, n.toNat = min (s.rxDropCount.toNat + 1) 0xFFFFFFFF ∧
      exec (.rxFrame frame) s = .next { s with rxDropCount := n, out := s.out ++ [.raised .ringOverrun] }

/-- 46_receive.md R300, R306, R308, R310, R312 for a frame that fits one buffer; the order of 20_memory.md R74. -/
def Obligations.FrameFillsOneBuffer : Prop :=
  ∀ (s : State) (frame : List Byte),
    let a := rxDescAddr s
    let buf := (decodeRxd (descInt (Memory.readRange s.mem a.toNat 16))).addr
    let wb : List Byte :=
      [BitVec.ofNat 8 frame.length, BitVec.ofNat 8 (frame.length / 256), 0#8, 0#8, 0x07#8, 0#8, 0#8, 0#8]
    rxHead s < rxCount s → rxTail s < rxCount s → rxHead s ≠ rxTail s →
    frame.length ≤ rxBufSize s.regs.rctl → s.regs.rxcsum.extractLsb' 8 2 = 0#2 →
    mappable s.holes a 16 = true → mappable s.holes (a + 8#64) 8 = true →
    (frame ≠ [] → mappable s.holes buf frame.length = true →
      exec (.rxFrame frame) s =
        .next (raiseCause 0x00000080#32
          { s with
            regs := { s.regs with rdh := BitVec.ofNat 32 ((rxHead s + 1) % rxCount s) }
            mem := Memory.writeRange (Memory.writeRange s.mem buf.toNat frame) (a + 8#64).toNat wb
            rx := none
            out := s.out ++ [.memRead a 16 true, .memWrite buf frame true, .memWrite (a + 8#64) wb true] })) ∧
    (frame = [] →
      exec (.rxFrame frame) s =
        .next (raiseCause 0x00000080#32
          { s with
            regs := { s.regs with rdh := BitVec.ofNat 32 ((rxHead s + 1) % rxCount s) }
            mem := Memory.writeRange s.mem (a + 8#64).toNat wb
            rx := none
            out := s.out ++ [.memRead a 16 true, .memWrite (a + 8#64) wb true] }))

/-- 46_receive.md R309 with exactly one free descriptor. -/
def Obligations.FrameIsTruncatedWhenDescriptorsRunOut : Prop :=
  ∀ (s : State) (frame : List Byte),
    let a := rxDescAddr s
    let buf := (decodeRxd (descInt (Memory.readRange s.mem a.toNat 16))).addr
    let B := rxBufSize s.regs.rctl
    let wb : List Byte := [BitVec.ofNat 8 B, BitVec.ofNat 8 (B / 256), 0#8, 0#8, 0x07#8, 0x80#8, 0#8, 0#8]
    rxHead s < rxCount s → rxTail s < rxCount s → rxTail s = (rxHead s + 1) % rxCount s → 1 < rxCount s →
    B < frame.length →
    mappable s.holes a 16 = true → mappable s.holes (a + 8#64) 8 = true → mappable s.holes buf B = true →
      exec (.rxFrame frame) s =
        .next (raiseCause 0x00000080#32
          { s with
            regs := { s.regs with rdh := BitVec.ofNat 32 (rxTail s) }
            mem := Memory.writeRange (Memory.writeRange s.mem buf.toNat (frame.take B)) (a + 8#64).toNat wb
            rx := none
            out := s.out ++
              [.memRead a 16 true, .memWrite buf (frame.take B) true, .memWrite (a + 8#64) wb true] })

/-- 46_receive.md R305 to R310 and R313; 20_memory.md R74 (b). -/
def Obligations.FrameChainsOverDescriptors : Prop :=
  ∀ (s : State) (frame : List Byte),
    let B := rxBufSize s.regs.rctl
    let nr := rxCount s
    let n := (frame.length + B - 1) / B
    let desc (j : Nat) : Addr := descAddr (rdba s) ((rxHead s + j) % nr)
    let buf (j : Nat) : Addr := (decodeRxd (descInt (Memory.readRange s.mem (desc j).toNat 16))).addr
    let chunk (j : Nat) : List Byte := (frame.drop (j * B)).take B
    let wb (j : Nat) : List Byte :=
      [BitVec.ofNat 8 (chunk j).length, BitVec.ofNat 8 ((chunk j).length / 256), 0#8, 0#8,
        if j + 1 = n then 0x07#8 else 0x01#8, 0#8, 0#8, 0#8]
    rxHead s < nr → rxTail s < nr → frame ≠ [] → n ≤ (rxTail s + nr - rxHead s) % nr →
    s.regs.rxcsum.extractLsb' 8 2 = 0#2 →
    (∀ j, j < n → mappable s.holes (desc j) 16 = true ∧ mappable s.holes (desc j + 8#64) 8 = true ∧
      mappable s.holes (buf j) (chunk j).length = true) →
    exec (.rxFrame frame) s =
      .next (raiseCause 0x00000080#32
        { s with
          regs := { s.regs with rdh := BitVec.ofNat 32 ((rxHead s + n) % nr) }
          mem := (List.range n).foldl (fun m j =>
            Memory.writeRange (Memory.writeRange m (buf j).toNat (chunk j)) (desc j + 8#64).toNat (wb j)) s.mem
          rx := none
          out := s.out ++ (List.range n).map (fun j => .memRead (desc j) 16 true) ++
            (List.range n).flatMap (fun j =>
              [.memWrite (buf j) (chunk j) true, .memWrite (desc j + 8#64) (wb j) true]) })

/-- 46_receive.md R308 and R310 for one descriptor, R306 for one scan, and R300, R307, R309 for a frame; what RXD does
without a fill is log entry 8. -/
def Obligations.ReceiveDescriptorRow : Prop :=
  (∀ (s : State) (d : RxDesc),
    (s.rx = none → exec (.rxd d) s = .next s) ∧
    (∀ job, s.rx = some job → job.pending = [] → exec (.rxd d) s = .next s) ∧
    ∀ (job : RxFill) (a : Addr) (rest : List Addr), s.rx = some job → job.pending = a :: rest →
      let n := min job.bufSize (job.frame.length - job.index * job.bufSize)
      let chunk := (job.frame.drop (job.index * job.bufSize)).take n
      let stored := n = 0 ∨ mappable s.holes d.addr n = true
      let wfail : Bool := !decide stored
      let last := rest.isEmpty
      let status : Byte := if last then 0x03#8 ||| job.cs.status else 0x01#8
      let errors : Byte :=
        (if wfail then 0x80#8 else 0#8) |||
          (if last then job.cs.errors ||| (if job.trunc || job.anyfail || wfail then 0x80#8 else 0#8) else 0#8)
      let csum : BitVec 16 := if last then job.cs.csum else 0#16
      let wb : List Byte :=
        [BitVec.ofNat 8 n, BitVec.ofNat 8 (n / 256), csum.extractLsb' 0 8, csum.extractLsb' 8 8, status, errors,
          0#8, 0#8]
      let mem1 := if n ≠ 0 ∧ stored then Memory.writeRange s.mem d.addr.toNat chunk else s.mem
      let reported := mappable s.holes (a + 8#64) 8 = true
      exec (.rxd d) s =
        .next { s with
          mem := if reported then Memory.writeRange mem1 (a + 8#64).toNat wb else mem1
          rx := some { job with pending := rest, index := job.index + 1, anyfail := job.anyfail || wfail }
          out := s.out ++
            (if n = 0 then [] else if stored then [.memWrite d.addr chunk true]
              else [.memWrite d.addr chunk false, .raised (.dma .rxBuffer)]) ++
            (if reported then [.memWrite (a + 8#64) wb true]
              else [.memWrite (a + 8#64) wb false, .raised (.dma .rxWriteback)]) }) ∧
    (∀ (s : State) (nr free need : Nat),
      let a := rxDescAddr s
      let passed : RegFile := { s.regs with rdh := BitVec.ofNat 32 ((rxHead s + 1) % nr) }
      let fetched : State := { s with regs := passed, out := s.out ++ [.memRead a 16 true] }
      let skipped : State :=
        { s with regs := passed, out := s.out ++ [.memRead a 16 false, .raised (.dma .rxDescFetch)] }
      rxGather nr 0 need s = ([], s) ∧ rxGather nr free 0 s = ([], s) ∧
      (mappable s.holes a 16 = true →
        rxGather nr (free + 1) (need + 1) s =
          ((a, decodeRxd (descInt (Memory.readRange s.mem a.toNat 16))) :: (rxGather nr free need fetched).1,
            (rxGather nr free need fetched).2)) ∧
      (mappable s.holes a 16 = false →
        rxGather nr (free + 1) (need + 1) s = rxGather nr free (need + 1) skipped)) ∧
    ∀ (s : State) (frame : List Byte),
      let B := rxBufSize s.regs.rctl
      let need := max 1 ((frame.length + B - 1) / B)
      let g := rxGather (rxCount s) ((rxTail s + rxCount s - rxHead s) % rxCount s) need s
      let trunc := decide (g.1.length < need)
      let start : State :=
        { g.2 with
          rx := some
            { frame := frame, bufSize := B, pending := g.1.map Prod.fst, index := 0, trunc := trunc
              cs := rxChecksum s.regs.rxcsum frame trunc, anyfail := false } }
      rxHead s < rxCount s → rxTail s < rxCount s → rxHead s ≠ rxTail s →
      (g.1 = [] →
        ∃ n : BitVec 32, n.toNat = min (s.rxDropCount.toNat + 1) 0xFFFFFFFF ∧
          exec (.rxFrame frame) s = .next { g.2 with rxDropCount := n, out := g.2.out ++ [.raised .ringOverrun] }) ∧
      (g.1 ≠ [] →
        ∃ t, runInstrs (g.1.map fun e => .rxd e.2) start = .next t ∧
          exec (.rxFrame frame) s = .next (raiseCause 0x00000080#32 { t with rx := none }))

/-- 46_receive.md R313, with R303, R306, R307, R308 and R310. -/
def Obligations.ReceiveHeadNeverPassesTheTail : Prop :=
  ∀ (s : State) (frame : List Byte), rxHead s < rxCount s → rxTail s < rxCount s →
    let nr := rxCount s
    let free := (rxTail s + nr - rxHead s) % nr
    let desc (j : Nat) : Addr := descAddr (rdba s) ((rxHead s + j) % nr)
    let buf (j : Nat) : Addr := (decodeRxd (descInt (Memory.readRange s.mem (desc j).toNat 16))).addr
    let size := min (rxBufSize s.regs.rctl) frame.length
    ∃ t evs k, exec (.rxFrame frame) s = .next t ∧ k ≤ free ∧ (0 < free → 0 < k) ∧
      (rxTail s + nr - (rxHead s + k) % nr) % nr = free - k ∧
      t = { s with
        regs := t.regs, irqLine := t.irqLine, itrHoldoff := t.itrHoldoff, rxDropCount := t.rxDropCount
        rx := t.rx, mem := t.mem, out := s.out ++ evs } ∧
      (∀ x, (∀ j, j < k → mappable s.holes (desc j) 16 = true →
          (x < (desc j + 8#64).toNat ∨ (desc j + 8#64).toNat + 8 ≤ x) ∧
            (x < (buf j).toNat ∨ (buf j).toNat + size ≤ x)) →
        Memory.read t.mem x = Memory.read s.mem x) ∧
      ((t.regs = { s.regs with rdh := BitVec.ofNat 32 ((rxHead s + k) % nr) } ∧ t.mem = s.mem ∧ t.rx = s.rx ∧
          t.irqLine = s.irqLine ∧ t.itrHoldoff = s.itrHoldoff ∧
          t.rxDropCount.toNat = min (s.rxDropCount.toNat + 1) 0xFFFFFFFF) ∨
        (t.regs =
            { s.regs with
              rdh := BitVec.ofNat 32 ((rxHead s + k) % nr), icr := s.regs.icr ||| 0x00000080#32 } ∧
          t.rxDropCount = s.rxDropCount ∧ t.rx = none))

/-- 46_receive.md R314 to R318. -/
def Obligations.ReceiveChecksumReport : Prop :=
  ∀ (rxcsum : Word) (f : List Byte) (trunc : Bool),
    let r := rxChecksum rxcsum f trunc
    let ip : Bool := rxcsum.getLsbD 8
    let tu : Bool := rxcsum.getLsbD 9 && l4Checkable f
    let ihl := 4 * ((byteAt f 14).extractLsb' 0 4).toNat
    let proto := byteAt f 23
    let tot := be16 f 16
    (isIPv4 f = true ↔
      34 ≤ f.length ∧ byteAt f 12 = 0x08#8 ∧ byteAt f 13 = 0x00#8 ∧ (byteAt f 14).extractLsb' 4 4 = 4#4 ∧
        20 ≤ ihl ∧ 14 + ihl ≤ f.length) ∧
    (l4Checkable f = true ↔
      (proto = 6#8 ∨ proto = 17#8) ∧ be16 f 20 &&& 0x3FFF = 0 ∧ ihl + (if proto = 6#8 then 20 else 8) ≤ tot ∧
        14 + tot ≤ f.length ∧ (proto = 17#8 → be16 f (14 + ihl + 6) ≠ 0)) ∧
    (l4Good f = true ↔
      ocSum (slice f 26 34 ++ [0x00#8, proto] ++ putBe16 (tot - ihl) ++ slice f (14 + ihl) (14 + tot)) = 0xFFFF) ∧
    (rxcsum.extractLsb' 8 2 = 0#2 ∨ trunc = true → r = ⟨0x04#8, 0x00#8, 0x0000#16⟩) ∧
    (rxcsum.extractLsb' 8 2 ≠ 0#2 → trunc = false →
      r.csum.toNat =
        (if (rxcsum.extractLsb' 0 8).toNat < f.length then ocSum (f.drop (rxcsum.extractLsb' 0 8).toNat) else 0) ∧
      (isIPv4 f = false → r.status = 0x04#8 ∧ r.errors = 0x00#8) ∧
      (isIPv4 f = true →
        r.status =
          ((if ip then 0x40#8 else 0#8) ||| (if tu then 0x20#8 else 0#8) ||| (if ip || tu then 0#8 else 0x04#8)) ∧
        r.errors =
          ((if ip && ocSum (slice f 14 (14 + ihl)) != 0xFFFF then 0x40#8 else 0#8) |||
            (if tu && !l4Good f then 0x20#8 else 0#8))))

/-- 70_reset_and_hazards.md R402, 41_control_regs.md R155 and R157. -/
def Obligations.EnablesDoNotGate : Prop :=
  ∀ s t : State,
    (∀ frame, exec (.rxFrame frame) s = .next t →
      exec (.rxFrame frame) { s with regs := { s.regs with rctl := s.regs.rctl ^^^ 0x00000002#32 } } =
        .next { t with regs := { t.regs with rctl := t.regs.rctl ^^^ 0x00000002#32 } }) ∧
    ∀ wv be v, exec (.wrTdt wv be) s = .next t →
      exec (.wrTdt wv be) { s with regs := { s.regs with tctl := v } } =
        .next { t with regs := { t.regs with tctl := v } }

/-- 60_exceptions.md R360, 40_dispatcher.md R130, 70_reset_and_hazards.md R398; the schedule is log entry 1. -/
def Obligations.StepRunsTheDecodedOperation : Prop :=
  ∀ (s : State) (o : Operation) (rest : List Input), s.inbox = .op o :: rest →
    let u : State := { s with inbox := rest, bus := Bus.idle }
    (∀ i t, decode o.wire = .ok [i] → exec i u = .next t → step s = .next (finishOperation o t)) ∧
    (∀ i j t v, decode o.wire = .ok [i, j] → exec i u = .next t → exec j t = .next v →
      step s = .next (finishOperation o v)) ∧
    (∀ acc t, o = .access acc →
      finishOperation o t =
        { t with
          bus := Bus.idle
          out := t.out ++ [.response (if t.bus.fault then 0#64 else assembleRead acc t.bus.reads) t.bus.fault] }) ∧
    ((¬∃ acc, o = .access acc) → ∀ t, finishOperation o t = t)

/-- 60_exceptions.md R330, R331, R336 and R362. -/
def Obligations.NoStepStops : Prop :=
  (∀ s : State, ∃ t evs, step s = .next t ∧ t.out = s.out ++ evs ∧ t.mac = s.mac) ∧
    [FaultEvent.access .badWidth, .access .outOfRange, .access .misaligned].map FaultEvent.info =
      [(1, 1), (1, 2), (1, 3)] ∧
    [FaultEvent.dma .txDescFetch, .dma .txBuffer, .dma .txWriteback, .dma .rxDescFetch, .dma .rxBuffer,
        .dma .rxWriteback, .dma .txFrameOverflow].map FaultEvent.info =
      [(2, 1), (2, 2), (2, 3), (2, 4), (2, 5), (2, 6), (2, 7)] ∧
    [FaultEvent.offload .txOffload, .offload .txReservedKind, .ringOverrun].map FaultEvent.info =
      [(3, 1), (3, 2), (4, 0)]

/-- 20_memory.md R70 and R72; the canonical form of the memory is log entry 3. -/
def Obligations.DmaIsAllOrNothing : Prop :=
  ∀ (s : State) (a : Addr) (n : Nat) (v : List Byte),
    (2 ^ 64 < a.toNat + n → mappable s.holes a n = false) ∧
    (mappable s.holes a n = false → memRead a n s = (none, { s with out := s.out ++ [.memRead a n false] })) ∧
    (mappable s.holes a n = true →
      ∃ bytes : List Byte, memRead a n s = (some bytes, { s with out := s.out ++ [.memRead a n true] }) ∧
        bytes.length = n ∧ ∀ i, i < n → byteAt bytes i = Memory.read s.mem (a.toNat + i)) ∧
    (mappable s.holes a v.length = false →
      memWrite a v s = (false, { s with out := s.out ++ [.memWrite a v false] })) ∧
    (mappable s.holes a v.length = true → MemInv s →
      ∃ mem', memWrite a v s = (true, { s with mem := mem', out := s.out ++ [.memWrite a v true] }) ∧
        Memory.wf mem' = true ∧ (∀ i, i < v.length → Memory.read mem' (a.toNat + i) = byteAt v i) ∧
        ∀ k, k < a.toNat ∨ a.toNat + v.length ≤ k → Memory.read mem' k = Memory.read s.mem k)

end
end

