-- ==== Sys2Proof/Laws/Memory.lean ====
section
/-! SUPPORT. Guest memory: a read after a write, and the canonical form under every memory operation. -/

namespace Sys2Proof.Machine

theorem Memory.read_write_same (m : Memory) (a : Nat) (v : Byte) (lo : Nat) (h : Memory.wfFrom lo m = true) :
    Memory.read (Memory.write m a v) a = v := by
  induction m generalizing lo with
  | nil =>
    unfold Memory.write; split
    · next hv => simp [Memory.read, hv]
    · simp [Memory.read]
  | cons c rest ih =>
    obtain ⟨x, b⟩ := c
    simp only [Memory.wfFrom, Bool.and_eq_true, decide_eq_true_eq] at h
    have hrest : ∀ k ≤ x, Memory.read rest k = memDefault := by
      intro k hk
      have key : ∀ (r : Memory) (l : Nat), Memory.wfFrom l r = true → ∀ j < l, Memory.read r j = memDefault := by
        intro r
        induction r with
        | nil => intros; rfl
        | cons d r ihr =>
          intro l hl j hj
          obtain ⟨y, e⟩ := d
          simp only [Memory.wfFrom, Bool.and_eq_true, decide_eq_true_eq] at hl
          have : y ≠ j := by omega
          simp only [Memory.read, if_neg this]
          exact ihr (y + 1) hl.2 j (by omega)
      exact key rest (x + 1) h.2 k (by omega)
    unfold Memory.write
    split
    · next hlt =>
      have : x ≠ a := by omega
      simp only [Memory.read, if_neg this]
      exact ih (x + 1) h.2
    · split
      · next _ heq =>
        subst heq
        split
        · next hv => rw [hv]; exact hrest x (Nat.le_refl x)
        · simp [Memory.read]
      · next hlt hne =>
        split
        · next hv =>
          have : x ≠ a := by omega
          simp only [Memory.read, if_neg this, hv]
          exact hrest a (by omega)
        · simp [Memory.read]

theorem Memory.read_write_other (m : Memory) (a k : Nat) (v : Byte) (h : k ≠ a) :
    Memory.read (Memory.write m a v) k = Memory.read m k := by
  induction m with
  | nil =>
    unfold Memory.write; split
    · rfl
    · simp [Memory.read, Ne.symm h]
  | cons c rest ih =>
    obtain ⟨x, b⟩ := c
    unfold Memory.write
    split
    · simp only [Memory.read, ih]
    · split
      · next _ heq =>
        subst heq
        split
        · simp [Memory.read, Ne.symm h]
        · simp [Memory.read, Ne.symm h]
      · split
        · rfl
        · simp [Memory.read, Ne.symm h]

theorem Memory.wfFrom_mono (m : Memory) (lo hi : Nat) (hle : lo ≤ hi) (h : Memory.wfFrom hi m = true) :
    Memory.wfFrom lo m = true := by
  cases m with
  | nil => rfl
  | cons c rest =>
    obtain ⟨x, b⟩ := c
    simp only [Memory.wfFrom, Bool.and_eq_true, decide_eq_true_eq] at h ⊢
    exact ⟨⟨⟨by omega, h.1.1.2⟩, h.1.2⟩, h.2⟩

theorem Memory.write_keeps_wfFrom (m : Memory) (a : Nat) (v : Byte) (lo : Nat) (hlo : lo ≤ a) (ha : a < 2 ^ 64)
    (h : Memory.wfFrom lo m = true) : Memory.wfFrom lo (Memory.write m a v) = true := by
  induction m generalizing lo with
  | nil =>
    unfold Memory.write; split
    · rfl
    · next hv => simp [Memory.wfFrom, hlo, hv]; exact ha
  | cons c rest ih =>
    obtain ⟨x, b⟩ := c
    have h' := h
    simp only [Memory.wfFrom, Bool.and_eq_true, decide_eq_true_eq] at h
    unfold Memory.write
    split
    · next hlt =>
      simp only [Memory.wfFrom, Bool.and_eq_true, decide_eq_true_eq]
      exact ⟨h.1, ih (x + 1) (by omega) h.2⟩
    · split
      · next _ heq =>
        subst heq
        split
        · exact Memory.wfFrom_mono rest lo (x + 1) (by omega) h.2
        · next hv =>
          simp only [Memory.wfFrom, Bool.and_eq_true, decide_eq_true_eq, bne_iff_ne]
          exact ⟨⟨⟨hlo, ha⟩, hv⟩, h.2⟩
      · next hlt hne =>
        split
        · exact h'
        · next hv =>
          simp only [Memory.wfFrom, Bool.and_eq_true, decide_eq_true_eq, bne_iff_ne]
          have hb := h.1.2
          simp only [bne_iff_ne] at hb
          exact ⟨⟨⟨hlo, ha⟩, hv⟩, ⟨⟨by omega, h.1.1.2⟩, hb⟩, h.2⟩

/-- Storing a byte of the 64-bit space keeps the canonical form. -/
theorem Memory.write_keeps_wf (m : Memory) (a : Nat) (v : Byte) (ha : a < 2 ^ 64) (h : Memory.wf m = true) :
    Memory.wf (Memory.write m a v) = true :=
  Memory.write_keeps_wfFrom m a v 0 (Nat.zero_le a) ha h

/-- Storing bytes inside the 64-bit space keeps the canonical form. -/
theorem Memory.writeRange_keeps_wf (vs : List Byte) (m : Memory) (a : Nat) (ha : a + vs.length ≤ 2 ^ 64)
    (h : Memory.wf m = true) : Memory.wf (Memory.writeRange m a vs) = true := by
  induction vs generalizing m a with
  | nil => exact h
  | cons v vs ih =>
    simp only [List.length_cons] at ha
    exact ih _ _ (by omega) (Memory.write_keeps_wf m a v (by omega) h)

/-- A byte outside the stored range reads as before. -/
theorem Memory.read_writeRange_other (vs : List Byte) (m : Memory) (a k : Nat)
    (h : k < a ∨ a + vs.length ≤ k) : Memory.read (Memory.writeRange m a vs) k = Memory.read m k := by
  induction vs generalizing m a with
  | nil => rfl
  | cons v vs ih =>
    simp only [List.length_cons] at h
    rw [Memory.writeRange, ih _ _ (by omega), Memory.read_write_other _ _ _ _ (by omega)]

/-- Byte `i` of the stored range reads as what was stored there. -/
theorem Memory.read_writeRange_same (vs : List Byte) (m : Memory) (a i : Nat) (hi : i < vs.length)
    (ha : a + vs.length ≤ 2 ^ 64) (h : Memory.wf m = true) :
    Memory.read (Memory.writeRange m a vs) (a + i) = byteAt vs i := by
  induction vs generalizing m a i with
  | nil => simp at hi
  | cons v vs ih =>
    simp only [List.length_cons] at hi ha
    cases i with
    | zero =>
      have h0 := Memory.read_writeRange_other vs (Memory.write m a v) (a + 1) a (by omega)
      exact h0.trans (Memory.read_write_same m a v 0 h)
    | succ i =>
      rw [Memory.writeRange, show a + (i + 1) = a + 1 + i by omega,
        ih _ _ i (by omega) (by omega) (Memory.write_keeps_wf m a v (by omega) h)]
      rfl

theorem Memory.readRange_length (m : Memory) (a n : Nat) : (Memory.readRange m a n).length = n := by
  induction n generalizing a with
  | zero => rfl
  | succ n ih => simp [Memory.readRange, ih]

/-- Byte `i` of a range read. -/
theorem Memory.byteAt_readRange (m : Memory) (a n i : Nat) (hi : i < n) :
    byteAt (Memory.readRange m a n) i = Memory.read m (a + i) := by
  induction n generalizing a i with
  | zero => omega
  | succ n ih =>
    cases i with
    | zero => rfl
    | succ i =>
      have h := ih (a + 1) i (by omega)
      rw [show a + 1 + i = a + (i + 1) by omega] at h
      simpa [Memory.readRange, byteAt] using h

/-- A range read depends on its bytes only. -/
theorem Memory.readRange_congr (m m' : Memory) (a n : Nat)
    (h : ∀ k, a ≤ k → k < a + n → Memory.read m' k = Memory.read m k) :
    Memory.readRange m' a n = Memory.readRange m a n := by
  induction n generalizing a with
  | zero => rfl
  | succ n ih =>
    simp only [Memory.readRange]
    rw [h a (Nat.le_refl a) (by omega), ih (a + 1) (fun k h1 h2 => h k (by omega) (by omega))]

end Sys2Proof.Machine
end

