-- ==== Sys2Proof/Laws/State.lean ====
section
/-! SUPPORT. One lemma for each field of the state under each named update, and the reads of the register file. -/

namespace Sys2Proof.Machine

/-! ### The register file -/

/-- A register whose value is stored (10_state.md R17, R22, R24 name the three that are not). -/
def Reg.stored : Reg → Bool
  | .status | .ics | .imc => false
  | .ctrl | .eerd | .mdic | .icr | .itr | .ims | .rctl | .tctl | .rdbal | .rdbah | .rdlen | .rdh | .rdt | .tdbal
  | .tdbah | .tdlen | .tdh | .tdt | .rxcsum => true

theorem RegFile.get_set_same (f : RegFile) (v : Word) (r : Reg) (h : Reg.stored r = true) :
    (f.set v r).get r = v := by
  cases r <;> first | rfl | cases h

theorem RegFile.get_set_other (f : RegFile) (v : Word) (r q : Reg) (h : q ≠ r) : (f.set v r).get q = f.get q := by
  cases r <;> cases q <;> first | rfl | exact absurd rfl h

theorem RegFile.set_unstored (f : RegFile) (v : Word) (r : Reg) (h : Reg.stored r = false) : f.set v r = f := by
  cases r <;> first | rfl | cases h

theorem reg_setReg_same (s : State) (r : Reg) (v : Word) (h : Reg.stored r = true) : (s.setReg r v).reg r = v :=
  RegFile.get_set_same s.regs v r h

theorem reg_setReg_other (s : State) (r q : Reg) (v : Word) (h : q ≠ r) : (s.setReg r v).reg q = s.reg q :=
  RegFile.get_set_other s.regs v r q h

/-- A register read depends on the register file only. -/
theorem reg_congr {s t : State} (h : t.regs = s.regs) (r : Reg) : t.reg r = s.reg r := by
  unfold State.reg; rw [h]

/-! ### The fields under the named updates -/

@[simp] theorem setReg_regs (s : State) (r : Reg) (v : Word) : (s.setReg r v).regs = s.regs.set v r := rfl
@[simp] theorem setReg_irqLine (s : State) (r : Reg) (v : Word) : (s.setReg r v).irqLine = s.irqLine := rfl
@[simp] theorem setReg_itrHoldoff (s : State) (r : Reg) (v : Word) : (s.setReg r v).itrHoldoff = s.itrHoldoff := rfl
@[simp] theorem setReg_txctx (s : State) (r : Reg) (v : Word) : (s.setReg r v).txctx = s.txctx := rfl
@[simp] theorem setReg_rxDropCount (s : State) (r : Reg) (v : Word) : (s.setReg r v).rxDropCount = s.rxDropCount := rfl
@[simp] theorem setReg_phy0 (s : State) (r : Reg) (v : Word) : (s.setReg r v).phy0 = s.phy0 := rfl
@[simp] theorem setReg_bus (s : State) (r : Reg) (v : Word) : (s.setReg r v).bus = s.bus := rfl
@[simp] theorem setReg_tx (s : State) (r : Reg) (v : Word) : (s.setReg r v).tx = s.tx := rfl
@[simp] theorem setReg_rx (s : State) (r : Reg) (v : Word) : (s.setReg r v).rx = s.rx := rfl
@[simp] theorem setReg_mac (s : State) (r : Reg) (v : Word) : (s.setReg r v).mac = s.mac := rfl
@[simp] theorem setReg_mem (s : State) (r : Reg) (v : Word) : (s.setReg r v).mem = s.mem := rfl
@[simp] theorem setReg_holes (s : State) (r : Reg) (v : Word) : (s.setReg r v).holes = s.holes := rfl
@[simp] theorem setReg_inbox (s : State) (r : Reg) (v : Word) : (s.setReg r v).inbox = s.inbox := rfl
@[simp] theorem setReg_out (s : State) (r : Reg) (v : Word) : (s.setReg r v).out = s.out := rfl

@[simp] theorem emit_regs (s : State) (e : PortEvent) : (s.emit e).regs = s.regs := rfl
@[simp] theorem emit_irqLine (s : State) (e : PortEvent) : (s.emit e).irqLine = s.irqLine := rfl
@[simp] theorem emit_itrHoldoff (s : State) (e : PortEvent) : (s.emit e).itrHoldoff = s.itrHoldoff := rfl
@[simp] theorem emit_txctx (s : State) (e : PortEvent) : (s.emit e).txctx = s.txctx := rfl
@[simp] theorem emit_rxDropCount (s : State) (e : PortEvent) : (s.emit e).rxDropCount = s.rxDropCount := rfl
@[simp] theorem emit_phy0 (s : State) (e : PortEvent) : (s.emit e).phy0 = s.phy0 := rfl
@[simp] theorem emit_bus (s : State) (e : PortEvent) : (s.emit e).bus = s.bus := rfl
@[simp] theorem emit_tx (s : State) (e : PortEvent) : (s.emit e).tx = s.tx := rfl
@[simp] theorem emit_rx (s : State) (e : PortEvent) : (s.emit e).rx = s.rx := rfl
@[simp] theorem emit_mac (s : State) (e : PortEvent) : (s.emit e).mac = s.mac := rfl
@[simp] theorem emit_mem (s : State) (e : PortEvent) : (s.emit e).mem = s.mem := rfl
@[simp] theorem emit_holes (s : State) (e : PortEvent) : (s.emit e).holes = s.holes := rfl
@[simp] theorem emit_inbox (s : State) (e : PortEvent) : (s.emit e).inbox = s.inbox := rfl
@[simp] theorem emit_out (s : State) (e : PortEvent) : (s.emit e).out = s.out ++ [e] := rfl

@[simp] theorem raiseFault_regs (f : FaultEvent) (s : State) : (raiseFault f s).regs = s.regs := rfl
@[simp] theorem raiseFault_irqLine (f : FaultEvent) (s : State) : (raiseFault f s).irqLine = s.irqLine := rfl
@[simp] theorem raiseFault_itrHoldoff (f : FaultEvent) (s : State) : (raiseFault f s).itrHoldoff = s.itrHoldoff := rfl
@[simp] theorem raiseFault_txctx (f : FaultEvent) (s : State) : (raiseFault f s).txctx = s.txctx := rfl
@[simp] theorem raiseFault_rxDropCount (f : FaultEvent) (s : State) : (raiseFault f s).rxDropCount = s.rxDropCount := rfl
@[simp] theorem raiseFault_phy0 (f : FaultEvent) (s : State) : (raiseFault f s).phy0 = s.phy0 := rfl
@[simp] theorem raiseFault_bus (f : FaultEvent) (s : State) : (raiseFault f s).bus = s.bus := rfl
@[simp] theorem raiseFault_tx (f : FaultEvent) (s : State) : (raiseFault f s).tx = s.tx := rfl
@[simp] theorem raiseFault_rx (f : FaultEvent) (s : State) : (raiseFault f s).rx = s.rx := rfl
@[simp] theorem raiseFault_mac (f : FaultEvent) (s : State) : (raiseFault f s).mac = s.mac := rfl
@[simp] theorem raiseFault_mem (f : FaultEvent) (s : State) : (raiseFault f s).mem = s.mem := rfl
@[simp] theorem raiseFault_holes (f : FaultEvent) (s : State) : (raiseFault f s).holes = s.holes := rfl
@[simp] theorem raiseFault_inbox (f : FaultEvent) (s : State) : (raiseFault f s).inbox = s.inbox := rfl
@[simp] theorem raiseFault_out (f : FaultEvent) (s : State) : (raiseFault f s).out = s.out ++ [.raised f] := rfl

@[simp] theorem yieldRead_regs (v : Word) (s : State) : (yieldRead v s).regs = s.regs := rfl
@[simp] theorem yieldRead_irqLine (v : Word) (s : State) : (yieldRead v s).irqLine = s.irqLine := rfl
@[simp] theorem yieldRead_itrHoldoff (v : Word) (s : State) : (yieldRead v s).itrHoldoff = s.itrHoldoff := rfl
@[simp] theorem yieldRead_txctx (v : Word) (s : State) : (yieldRead v s).txctx = s.txctx := rfl
@[simp] theorem yieldRead_rxDropCount (v : Word) (s : State) : (yieldRead v s).rxDropCount = s.rxDropCount := rfl
@[simp] theorem yieldRead_phy0 (v : Word) (s : State) : (yieldRead v s).phy0 = s.phy0 := rfl
@[simp] theorem yieldRead_bus (v : Word) (s : State) : (yieldRead v s).bus = { s.bus with reads := s.bus.reads ++ [v] } := rfl
@[simp] theorem yieldRead_tx (v : Word) (s : State) : (yieldRead v s).tx = s.tx := rfl
@[simp] theorem yieldRead_rx (v : Word) (s : State) : (yieldRead v s).rx = s.rx := rfl
@[simp] theorem yieldRead_mac (v : Word) (s : State) : (yieldRead v s).mac = s.mac := rfl
@[simp] theorem yieldRead_mem (v : Word) (s : State) : (yieldRead v s).mem = s.mem := rfl
@[simp] theorem yieldRead_holes (v : Word) (s : State) : (yieldRead v s).holes = s.holes := rfl
@[simp] theorem yieldRead_inbox (v : Word) (s : State) : (yieldRead v s).inbox = s.inbox := rfl
@[simp] theorem yieldRead_out (v : Word) (s : State) : (yieldRead v s).out = s.out := rfl

@[simp] theorem storeMasked_regs (r : Reg) (wv : Word) (be : BitVec 4) (s : State) : (storeMasked r wv be s).regs = s.regs.set ((s.reg r &&& ~~~(r.wmask &&& byteMask be)) ||| (wv &&& r.wmask &&& byteMask be)) r := rfl
@[simp] theorem storeMasked_irqLine (r : Reg) (wv : Word) (be : BitVec 4) (s : State) : (storeMasked r wv be s).irqLine = s.irqLine := rfl
@[simp] theorem storeMasked_itrHoldoff (r : Reg) (wv : Word) (be : BitVec 4) (s : State) : (storeMasked r wv be s).itrHoldoff = s.itrHoldoff := rfl
@[simp] theorem storeMasked_txctx (r : Reg) (wv : Word) (be : BitVec 4) (s : State) : (storeMasked r wv be s).txctx = s.txctx := rfl
@[simp] theorem storeMasked_rxDropCount (r : Reg) (wv : Word) (be : BitVec 4) (s : State) : (storeMasked r wv be s).rxDropCount = s.rxDropCount := rfl
@[simp] theorem storeMasked_phy0 (r : Reg) (wv : Word) (be : BitVec 4) (s : State) : (storeMasked r wv be s).phy0 = s.phy0 := rfl
@[simp] theorem storeMasked_bus (r : Reg) (wv : Word) (be : BitVec 4) (s : State) : (storeMasked r wv be s).bus = s.bus := rfl
@[simp] theorem storeMasked_tx (r : Reg) (wv : Word) (be : BitVec 4) (s : State) : (storeMasked r wv be s).tx = s.tx := rfl
@[simp] theorem storeMasked_rx (r : Reg) (wv : Word) (be : BitVec 4) (s : State) : (storeMasked r wv be s).rx = s.rx := rfl
@[simp] theorem storeMasked_mac (r : Reg) (wv : Word) (be : BitVec 4) (s : State) : (storeMasked r wv be s).mac = s.mac := rfl
@[simp] theorem storeMasked_mem (r : Reg) (wv : Word) (be : BitVec 4) (s : State) : (storeMasked r wv be s).mem = s.mem := rfl
@[simp] theorem storeMasked_holes (r : Reg) (wv : Word) (be : BitVec 4) (s : State) : (storeMasked r wv be s).holes = s.holes := rfl
@[simp] theorem storeMasked_inbox (r : Reg) (wv : Word) (be : BitVec 4) (s : State) : (storeMasked r wv be s).inbox = s.inbox := rfl
@[simp] theorem storeMasked_out (r : Reg) (wv : Word) (be : BitVec 4) (s : State) : (storeMasked r wv be s).out = s.out := rfl

@[simp] theorem advanceTdh_regs (nt : Nat) (s : State) : (advanceTdh nt s).regs = s.regs.set (BitVec.ofNat 32 ((txHead s + 1) % nt)) .tdh := rfl
@[simp] theorem advanceTdh_irqLine (nt : Nat) (s : State) : (advanceTdh nt s).irqLine = s.irqLine := rfl
@[simp] theorem advanceTdh_itrHoldoff (nt : Nat) (s : State) : (advanceTdh nt s).itrHoldoff = s.itrHoldoff := rfl
@[simp] theorem advanceTdh_txctx (nt : Nat) (s : State) : (advanceTdh nt s).txctx = s.txctx := rfl
@[simp] theorem advanceTdh_rxDropCount (nt : Nat) (s : State) : (advanceTdh nt s).rxDropCount = s.rxDropCount := rfl
@[simp] theorem advanceTdh_phy0 (nt : Nat) (s : State) : (advanceTdh nt s).phy0 = s.phy0 := rfl
@[simp] theorem advanceTdh_bus (nt : Nat) (s : State) : (advanceTdh nt s).bus = s.bus := rfl
@[simp] theorem advanceTdh_tx (nt : Nat) (s : State) : (advanceTdh nt s).tx = s.tx := rfl
@[simp] theorem advanceTdh_rx (nt : Nat) (s : State) : (advanceTdh nt s).rx = s.rx := rfl
@[simp] theorem advanceTdh_mac (nt : Nat) (s : State) : (advanceTdh nt s).mac = s.mac := rfl
@[simp] theorem advanceTdh_mem (nt : Nat) (s : State) : (advanceTdh nt s).mem = s.mem := rfl
@[simp] theorem advanceTdh_holes (nt : Nat) (s : State) : (advanceTdh nt s).holes = s.holes := rfl
@[simp] theorem advanceTdh_inbox (nt : Nat) (s : State) : (advanceTdh nt s).inbox = s.inbox := rfl
@[simp] theorem advanceTdh_out (nt : Nat) (s : State) : (advanceTdh nt s).out = s.out := rfl

@[simp] theorem advanceRdh_regs (nr : Nat) (s : State) : (advanceRdh nr s).regs = s.regs.set (BitVec.ofNat 32 ((rxHead s + 1) % nr)) .rdh := rfl
@[simp] theorem advanceRdh_irqLine (nr : Nat) (s : State) : (advanceRdh nr s).irqLine = s.irqLine := rfl
@[simp] theorem advanceRdh_itrHoldoff (nr : Nat) (s : State) : (advanceRdh nr s).itrHoldoff = s.itrHoldoff := rfl
@[simp] theorem advanceRdh_txctx (nr : Nat) (s : State) : (advanceRdh nr s).txctx = s.txctx := rfl
@[simp] theorem advanceRdh_rxDropCount (nr : Nat) (s : State) : (advanceRdh nr s).rxDropCount = s.rxDropCount := rfl
@[simp] theorem advanceRdh_phy0 (nr : Nat) (s : State) : (advanceRdh nr s).phy0 = s.phy0 := rfl
@[simp] theorem advanceRdh_bus (nr : Nat) (s : State) : (advanceRdh nr s).bus = s.bus := rfl
@[simp] theorem advanceRdh_tx (nr : Nat) (s : State) : (advanceRdh nr s).tx = s.tx := rfl
@[simp] theorem advanceRdh_rx (nr : Nat) (s : State) : (advanceRdh nr s).rx = s.rx := rfl
@[simp] theorem advanceRdh_mac (nr : Nat) (s : State) : (advanceRdh nr s).mac = s.mac := rfl
@[simp] theorem advanceRdh_mem (nr : Nat) (s : State) : (advanceRdh nr s).mem = s.mem := rfl
@[simp] theorem advanceRdh_holes (nr : Nat) (s : State) : (advanceRdh nr s).holes = s.holes := rfl
@[simp] theorem advanceRdh_inbox (nr : Nat) (s : State) : (advanceRdh nr s).inbox = s.inbox := rfl
@[simp] theorem advanceRdh_out (nr : Nat) (s : State) : (advanceRdh nr s).out = s.out := rfl

@[simp] theorem setLine_regs (b : Bool) (s : State) : (setLine b s).regs = s.regs := rfl
@[simp] theorem setLine_irqLine (b : Bool) (s : State) : (setLine b s).irqLine = b := rfl
@[simp] theorem setLine_itrHoldoff (b : Bool) (s : State) : (setLine b s).itrHoldoff = s.itrHoldoff := rfl
@[simp] theorem setLine_txctx (b : Bool) (s : State) : (setLine b s).txctx = s.txctx := rfl
@[simp] theorem setLine_rxDropCount (b : Bool) (s : State) : (setLine b s).rxDropCount = s.rxDropCount := rfl
@[simp] theorem setLine_phy0 (b : Bool) (s : State) : (setLine b s).phy0 = s.phy0 := rfl
@[simp] theorem setLine_bus (b : Bool) (s : State) : (setLine b s).bus = s.bus := rfl
@[simp] theorem setLine_tx (b : Bool) (s : State) : (setLine b s).tx = s.tx := rfl
@[simp] theorem setLine_rx (b : Bool) (s : State) : (setLine b s).rx = s.rx := rfl
@[simp] theorem setLine_mac (b : Bool) (s : State) : (setLine b s).mac = s.mac := rfl
@[simp] theorem setLine_mem (b : Bool) (s : State) : (setLine b s).mem = s.mem := rfl
@[simp] theorem setLine_holes (b : Bool) (s : State) : (setLine b s).holes = s.holes := rfl
@[simp] theorem setLine_inbox (b : Bool) (s : State) : (setLine b s).inbox = s.inbox := rfl
@[simp] theorem setLine_out (b : Bool) (s : State) : (setLine b s).out = s.out ++ [.irq b] := rfl

@[simp] theorem setEerdDone_regs (b : Bool) (s : State) : (setEerdDone b s).regs = s.regs.set (setBit (s.reg .eerd) 4 b) .eerd := rfl
@[simp] theorem setEerdDone_irqLine (b : Bool) (s : State) : (setEerdDone b s).irqLine = s.irqLine := rfl
@[simp] theorem setEerdDone_itrHoldoff (b : Bool) (s : State) : (setEerdDone b s).itrHoldoff = s.itrHoldoff := rfl
@[simp] theorem setEerdDone_txctx (b : Bool) (s : State) : (setEerdDone b s).txctx = s.txctx := rfl
@[simp] theorem setEerdDone_rxDropCount (b : Bool) (s : State) : (setEerdDone b s).rxDropCount = s.rxDropCount := rfl
@[simp] theorem setEerdDone_phy0 (b : Bool) (s : State) : (setEerdDone b s).phy0 = s.phy0 := rfl
@[simp] theorem setEerdDone_bus (b : Bool) (s : State) : (setEerdDone b s).bus = s.bus := rfl
@[simp] theorem setEerdDone_tx (b : Bool) (s : State) : (setEerdDone b s).tx = s.tx := rfl
@[simp] theorem setEerdDone_rx (b : Bool) (s : State) : (setEerdDone b s).rx = s.rx := rfl
@[simp] theorem setEerdDone_mac (b : Bool) (s : State) : (setEerdDone b s).mac = s.mac := rfl
@[simp] theorem setEerdDone_mem (b : Bool) (s : State) : (setEerdDone b s).mem = s.mem := rfl
@[simp] theorem setEerdDone_holes (b : Bool) (s : State) : (setEerdDone b s).holes = s.holes := rfl
@[simp] theorem setEerdDone_inbox (b : Bool) (s : State) : (setEerdDone b s).inbox = s.inbox := rfl
@[simp] theorem setEerdDone_out (b : Bool) (s : State) : (setEerdDone b s).out = s.out := rfl

@[simp] theorem clearPacket_regs (s : State) : (clearPacket s).regs = s.regs := rfl
@[simp] theorem clearPacket_irqLine (s : State) : (clearPacket s).irqLine = s.irqLine := rfl
@[simp] theorem clearPacket_itrHoldoff (s : State) : (clearPacket s).itrHoldoff = s.itrHoldoff := rfl
@[simp] theorem clearPacket_txctx (s : State) : (clearPacket s).txctx = s.txctx := rfl
@[simp] theorem clearPacket_rxDropCount (s : State) : (clearPacket s).rxDropCount = s.rxDropCount := rfl
@[simp] theorem clearPacket_phy0 (s : State) : (clearPacket s).phy0 = s.phy0 := rfl
@[simp] theorem clearPacket_bus (s : State) : (clearPacket s).bus = s.bus := rfl
@[simp] theorem clearPacket_tx (s : State) : (clearPacket s).tx = { TxAsm.fresh with wantIrq := s.tx.wantIrq } := rfl
@[simp] theorem clearPacket_rx (s : State) : (clearPacket s).rx = s.rx := rfl
@[simp] theorem clearPacket_mac (s : State) : (clearPacket s).mac = s.mac := rfl
@[simp] theorem clearPacket_mem (s : State) : (clearPacket s).mem = s.mem := rfl
@[simp] theorem clearPacket_holes (s : State) : (clearPacket s).holes = s.holes := rfl
@[simp] theorem clearPacket_inbox (s : State) : (clearPacket s).inbox = s.inbox := rfl
@[simp] theorem clearPacket_out (s : State) : (clearPacket s).out = s.out := rfl

@[simp] theorem poisonPacket_regs (s : State) : (poisonPacket s).regs = s.regs := rfl
@[simp] theorem poisonPacket_irqLine (s : State) : (poisonPacket s).irqLine = s.irqLine := rfl
@[simp] theorem poisonPacket_itrHoldoff (s : State) : (poisonPacket s).itrHoldoff = s.itrHoldoff := rfl
@[simp] theorem poisonPacket_txctx (s : State) : (poisonPacket s).txctx = s.txctx := rfl
@[simp] theorem poisonPacket_rxDropCount (s : State) : (poisonPacket s).rxDropCount = s.rxDropCount := rfl
@[simp] theorem poisonPacket_phy0 (s : State) : (poisonPacket s).phy0 = s.phy0 := rfl
@[simp] theorem poisonPacket_bus (s : State) : (poisonPacket s).bus = s.bus := rfl
@[simp] theorem poisonPacket_tx (s : State) : (poisonPacket s).tx = { s.tx with poison := true, asm := [] } := rfl
@[simp] theorem poisonPacket_rx (s : State) : (poisonPacket s).rx = s.rx := rfl
@[simp] theorem poisonPacket_mac (s : State) : (poisonPacket s).mac = s.mac := rfl
@[simp] theorem poisonPacket_mem (s : State) : (poisonPacket s).mem = s.mem := rfl
@[simp] theorem poisonPacket_holes (s : State) : (poisonPacket s).holes = s.holes := rfl
@[simp] theorem poisonPacket_inbox (s : State) : (poisonPacket s).inbox = s.inbox := rfl
@[simp] theorem poisonPacket_out (s : State) : (poisonPacket s).out = s.out := rfl

@[simp] theorem requestIrq_regs (b : Bool) (s : State) : (requestIrq b s).regs = s.regs := rfl
@[simp] theorem requestIrq_irqLine (b : Bool) (s : State) : (requestIrq b s).irqLine = s.irqLine := rfl
@[simp] theorem requestIrq_itrHoldoff (b : Bool) (s : State) : (requestIrq b s).itrHoldoff = s.itrHoldoff := rfl
@[simp] theorem requestIrq_txctx (b : Bool) (s : State) : (requestIrq b s).txctx = s.txctx := rfl
@[simp] theorem requestIrq_rxDropCount (b : Bool) (s : State) : (requestIrq b s).rxDropCount = s.rxDropCount := rfl
@[simp] theorem requestIrq_phy0 (b : Bool) (s : State) : (requestIrq b s).phy0 = s.phy0 := rfl
@[simp] theorem requestIrq_bus (b : Bool) (s : State) : (requestIrq b s).bus = s.bus := rfl
@[simp] theorem requestIrq_tx (b : Bool) (s : State) : (requestIrq b s).tx = { s.tx with wantIrq := s.tx.wantIrq || b } := rfl
@[simp] theorem requestIrq_rx (b : Bool) (s : State) : (requestIrq b s).rx = s.rx := rfl
@[simp] theorem requestIrq_mac (b : Bool) (s : State) : (requestIrq b s).mac = s.mac := rfl
@[simp] theorem requestIrq_mem (b : Bool) (s : State) : (requestIrq b s).mem = s.mem := rfl
@[simp] theorem requestIrq_holes (b : Bool) (s : State) : (requestIrq b s).holes = s.holes := rfl
@[simp] theorem requestIrq_inbox (b : Bool) (s : State) : (requestIrq b s).inbox = s.inbox := rfl
@[simp] theorem requestIrq_out (b : Bool) (s : State) : (requestIrq b s).out = s.out := rfl

@[simp] theorem mdiLoad_regs (op : BitVec 2) (pa : BitVec 5) (c : MdiFields) (s : State) : (mdiLoad op pa c s).regs = s.regs.set ((s.reg .mdic &&& ~~~Reg.mdic.wmask) ||| encodeMdi op pa c) .mdic := rfl
@[simp] theorem mdiLoad_irqLine (op : BitVec 2) (pa : BitVec 5) (c : MdiFields) (s : State) : (mdiLoad op pa c s).irqLine = s.irqLine := rfl
@[simp] theorem mdiLoad_itrHoldoff (op : BitVec 2) (pa : BitVec 5) (c : MdiFields) (s : State) : (mdiLoad op pa c s).itrHoldoff = s.itrHoldoff := rfl
@[simp] theorem mdiLoad_txctx (op : BitVec 2) (pa : BitVec 5) (c : MdiFields) (s : State) : (mdiLoad op pa c s).txctx = s.txctx := rfl
@[simp] theorem mdiLoad_rxDropCount (op : BitVec 2) (pa : BitVec 5) (c : MdiFields) (s : State) : (mdiLoad op pa c s).rxDropCount = s.rxDropCount := rfl
@[simp] theorem mdiLoad_phy0 (op : BitVec 2) (pa : BitVec 5) (c : MdiFields) (s : State) : (mdiLoad op pa c s).phy0 = s.phy0 := rfl
@[simp] theorem mdiLoad_bus (op : BitVec 2) (pa : BitVec 5) (c : MdiFields) (s : State) : (mdiLoad op pa c s).bus = s.bus := rfl
@[simp] theorem mdiLoad_tx (op : BitVec 2) (pa : BitVec 5) (c : MdiFields) (s : State) : (mdiLoad op pa c s).tx = s.tx := rfl
@[simp] theorem mdiLoad_rx (op : BitVec 2) (pa : BitVec 5) (c : MdiFields) (s : State) : (mdiLoad op pa c s).rx = s.rx := rfl
@[simp] theorem mdiLoad_mac (op : BitVec 2) (pa : BitVec 5) (c : MdiFields) (s : State) : (mdiLoad op pa c s).mac = s.mac := rfl
@[simp] theorem mdiLoad_mem (op : BitVec 2) (pa : BitVec 5) (c : MdiFields) (s : State) : (mdiLoad op pa c s).mem = s.mem := rfl
@[simp] theorem mdiLoad_holes (op : BitVec 2) (pa : BitVec 5) (c : MdiFields) (s : State) : (mdiLoad op pa c s).holes = s.holes := rfl
@[simp] theorem mdiLoad_inbox (op : BitVec 2) (pa : BitVec 5) (c : MdiFields) (s : State) : (mdiLoad op pa c s).inbox = s.inbox := rfl
@[simp] theorem mdiLoad_out (op : BitVec 2) (pa : BitVec 5) (c : MdiFields) (s : State) : (mdiLoad op pa c s).out = s.out := rfl

@[simp] theorem setMdicData_regs (v : BitVec 16) (s : State) : (setMdicData v s).regs = s.regs.set ((s.reg .mdic &&& 0xFFFF0000#32) ||| v.setWidth 32) .mdic := rfl
@[simp] theorem setMdicData_irqLine (v : BitVec 16) (s : State) : (setMdicData v s).irqLine = s.irqLine := rfl
@[simp] theorem setMdicData_itrHoldoff (v : BitVec 16) (s : State) : (setMdicData v s).itrHoldoff = s.itrHoldoff := rfl
@[simp] theorem setMdicData_txctx (v : BitVec 16) (s : State) : (setMdicData v s).txctx = s.txctx := rfl
@[simp] theorem setMdicData_rxDropCount (v : BitVec 16) (s : State) : (setMdicData v s).rxDropCount = s.rxDropCount := rfl
@[simp] theorem setMdicData_phy0 (v : BitVec 16) (s : State) : (setMdicData v s).phy0 = s.phy0 := rfl
@[simp] theorem setMdicData_bus (v : BitVec 16) (s : State) : (setMdicData v s).bus = s.bus := rfl
@[simp] theorem setMdicData_tx (v : BitVec 16) (s : State) : (setMdicData v s).tx = s.tx := rfl
@[simp] theorem setMdicData_rx (v : BitVec 16) (s : State) : (setMdicData v s).rx = s.rx := rfl
@[simp] theorem setMdicData_mac (v : BitVec 16) (s : State) : (setMdicData v s).mac = s.mac := rfl
@[simp] theorem setMdicData_mem (v : BitVec 16) (s : State) : (setMdicData v s).mem = s.mem := rfl
@[simp] theorem setMdicData_holes (v : BitVec 16) (s : State) : (setMdicData v s).holes = s.holes := rfl
@[simp] theorem setMdicData_inbox (v : BitVec 16) (s : State) : (setMdicData v s).inbox = s.inbox := rfl
@[simp] theorem setMdicData_out (v : BitVec 16) (s : State) : (setMdicData v s).out = s.out := rfl

@[simp] theorem eerdStart_irqLine (n : Byte) (d : BitVec 16) (s : State) : (eerdStart n d s).irqLine = s.irqLine := rfl
@[simp] theorem eerdStart_itrHoldoff (n : Byte) (d : BitVec 16) (s : State) : (eerdStart n d s).itrHoldoff = s.itrHoldoff := rfl
@[simp] theorem eerdStart_txctx (n : Byte) (d : BitVec 16) (s : State) : (eerdStart n d s).txctx = s.txctx := rfl
@[simp] theorem eerdStart_rxDropCount (n : Byte) (d : BitVec 16) (s : State) : (eerdStart n d s).rxDropCount = s.rxDropCount := rfl
@[simp] theorem eerdStart_phy0 (n : Byte) (d : BitVec 16) (s : State) : (eerdStart n d s).phy0 = s.phy0 := rfl
@[simp] theorem eerdStart_bus (n : Byte) (d : BitVec 16) (s : State) : (eerdStart n d s).bus = s.bus := rfl
@[simp] theorem eerdStart_tx (n : Byte) (d : BitVec 16) (s : State) : (eerdStart n d s).tx = s.tx := rfl
@[simp] theorem eerdStart_rx (n : Byte) (d : BitVec 16) (s : State) : (eerdStart n d s).rx = s.rx := rfl
@[simp] theorem eerdStart_mac (n : Byte) (d : BitVec 16) (s : State) : (eerdStart n d s).mac = s.mac := rfl
@[simp] theorem eerdStart_mem (n : Byte) (d : BitVec 16) (s : State) : (eerdStart n d s).mem = s.mem := rfl
@[simp] theorem eerdStart_holes (n : Byte) (d : BitVec 16) (s : State) : (eerdStart n d s).holes = s.holes := rfl
@[simp] theorem eerdStart_inbox (n : Byte) (d : BitVec 16) (s : State) : (eerdStart n d s).inbox = s.inbox := rfl
@[simp] theorem eerdStart_out (n : Byte) (d : BitVec 16) (s : State) : (eerdStart n d s).out = s.out := rfl

@[simp] theorem startPacket_regs (k : TxKind) (b : Bool) (p : Byte) (s : State) : (startPacket k b p s).regs = s.regs := by
  unfold startPacket; split <;> rfl
@[simp] theorem startPacket_irqLine (k : TxKind) (b : Bool) (p : Byte) (s : State) : (startPacket k b p s).irqLine = s.irqLine := by
  unfold startPacket; split <;> rfl
@[simp] theorem startPacket_itrHoldoff (k : TxKind) (b : Bool) (p : Byte) (s : State) : (startPacket k b p s).itrHoldoff = s.itrHoldoff := by
  unfold startPacket; split <;> rfl
@[simp] theorem startPacket_txctx (k : TxKind) (b : Bool) (p : Byte) (s : State) : (startPacket k b p s).txctx = s.txctx := by
  unfold startPacket; split <;> rfl
@[simp] theorem startPacket_rxDropCount (k : TxKind) (b : Bool) (p : Byte) (s : State) : (startPacket k b p s).rxDropCount = s.rxDropCount := by
  unfold startPacket; split <;> rfl
@[simp] theorem startPacket_phy0 (k : TxKind) (b : Bool) (p : Byte) (s : State) : (startPacket k b p s).phy0 = s.phy0 := by
  unfold startPacket; split <;> rfl
@[simp] theorem startPacket_bus (k : TxKind) (b : Bool) (p : Byte) (s : State) : (startPacket k b p s).bus = s.bus := by
  unfold startPacket; split <;> rfl
@[simp] theorem startPacket_rx (k : TxKind) (b : Bool) (p : Byte) (s : State) : (startPacket k b p s).rx = s.rx := by
  unfold startPacket; split <;> rfl
@[simp] theorem startPacket_mac (k : TxKind) (b : Bool) (p : Byte) (s : State) : (startPacket k b p s).mac = s.mac := by
  unfold startPacket; split <;> rfl
@[simp] theorem startPacket_mem (k : TxKind) (b : Bool) (p : Byte) (s : State) : (startPacket k b p s).mem = s.mem := by
  unfold startPacket; split <;> rfl
@[simp] theorem startPacket_holes (k : TxKind) (b : Bool) (p : Byte) (s : State) : (startPacket k b p s).holes = s.holes := by
  unfold startPacket; split <;> rfl
@[simp] theorem startPacket_inbox (k : TxKind) (b : Bool) (p : Byte) (s : State) : (startPacket k b p s).inbox = s.inbox := by
  unfold startPacket; split <;> rfl
@[simp] theorem startPacket_out (k : TxKind) (b : Bool) (p : Byte) (s : State) : (startPacket k b p s).out = s.out := by
  unfold startPacket; split <;> rfl

@[simp] theorem phyWrite_regs (r : BitVec 5) (v : BitVec 16) (s : State) : (phyWrite r v s).regs = s.regs := by
  unfold phyWrite; split <;> rfl
@[simp] theorem phyWrite_irqLine (r : BitVec 5) (v : BitVec 16) (s : State) : (phyWrite r v s).irqLine = s.irqLine := by
  unfold phyWrite; split <;> rfl
@[simp] theorem phyWrite_itrHoldoff (r : BitVec 5) (v : BitVec 16) (s : State) : (phyWrite r v s).itrHoldoff = s.itrHoldoff := by
  unfold phyWrite; split <;> rfl
@[simp] theorem phyWrite_txctx (r : BitVec 5) (v : BitVec 16) (s : State) : (phyWrite r v s).txctx = s.txctx := by
  unfold phyWrite; split <;> rfl
@[simp] theorem phyWrite_rxDropCount (r : BitVec 5) (v : BitVec 16) (s : State) : (phyWrite r v s).rxDropCount = s.rxDropCount := by
  unfold phyWrite; split <;> rfl
@[simp] theorem phyWrite_bus (r : BitVec 5) (v : BitVec 16) (s : State) : (phyWrite r v s).bus = s.bus := by
  unfold phyWrite; split <;> rfl
@[simp] theorem phyWrite_tx (r : BitVec 5) (v : BitVec 16) (s : State) : (phyWrite r v s).tx = s.tx := by
  unfold phyWrite; split <;> rfl
@[simp] theorem phyWrite_rx (r : BitVec 5) (v : BitVec 16) (s : State) : (phyWrite r v s).rx = s.rx := by
  unfold phyWrite; split <;> rfl
@[simp] theorem phyWrite_mac (r : BitVec 5) (v : BitVec 16) (s : State) : (phyWrite r v s).mac = s.mac := by
  unfold phyWrite; split <;> rfl
@[simp] theorem phyWrite_mem (r : BitVec 5) (v : BitVec 16) (s : State) : (phyWrite r v s).mem = s.mem := by
  unfold phyWrite; split <;> rfl
@[simp] theorem phyWrite_holes (r : BitVec 5) (v : BitVec 16) (s : State) : (phyWrite r v s).holes = s.holes := by
  unfold phyWrite; split <;> rfl
@[simp] theorem phyWrite_inbox (r : BitVec 5) (v : BitVec 16) (s : State) : (phyWrite r v s).inbox = s.inbox := by
  unfold phyWrite; split <;> rfl
@[simp] theorem phyWrite_out (r : BitVec 5) (v : BitVec 16) (s : State) : (phyWrite r v s).out = s.out := by
  unfold phyWrite; split <;> rfl

end Sys2Proof.Machine
end

