-- ==== Sys2Proof/Laws/Ops.lean ====
section
/-! SUPPORT. For each shared operation, what it can do: the ports, the interrupt line, the reset and the timer. -/

namespace Sys2Proof.Machine

/-! ### `MemRead` and `MemWrite` -/

/-- `memRead` returns the bytes of a mapped range, or nothing; either way it only records the event. -/
theorem memRead_cases (a : Addr) (n : Nat) (s : State) :
    (mappable s.holes a n = true ∧
        memRead a n s = (some (Memory.readRange s.mem a.toNat n), s.emit (.memRead a n true))) ∨
      (mappable s.holes a n = false ∧ memRead a n s = (none, s.emit (.memRead a n false))) := by
  unfold memRead
  cases h : mappable s.holes a n <;> simp

/-- The state after `memRead`: one event more. -/
theorem memRead_state (a : Addr) (n : Nat) (s : State) :
    (memRead a n s).2 = s.emit (.memRead a n (mappable s.holes a n)) := by
  unfold memRead; split <;> simp_all

/-- `memWrite` stores to a mapped range, or stores nothing. -/
theorem memWrite_cases (a : Addr) (v : List Byte) (s : State) :
    (mappable s.holes a v.length = true ∧
        memWrite a v s =
          (true, ({ s with mem := Memory.writeRange s.mem a.toNat v } : State).emit (.memWrite a v true))) ∨
      (mappable s.holes a v.length = false ∧ memWrite a v s = (false, s.emit (.memWrite a v false))) := by
  unfold memWrite
  cases h : mappable s.holes a v.length <;> simp

/-- A mapped range ends inside the 64-bit space (20_memory.md R72). -/
theorem mappable_bound (holes : List Hole) (a : Addr) (n : Nat) (h : mappable holes a n = true) :
    a.toNat + n ≤ 2 ^ 64 := by
  simp only [mappable, Bool.and_eq_true, decide_eq_true_eq] at h
  exact h.1

theorem memRead_length (a : Addr) (n : Nat) (s : State) (b : List Byte) (h : (memRead a n s).1 = some b) :
    b.length = n := by
  rcases memRead_cases a n s with ⟨_, h2⟩ | ⟨_, h2⟩
  · rw [h2] at h
    cases h
    exact Memory.readRange_length _ _ _
  · rw [h2] at h
    cases h

/-! ### What only changes guest memory, the assembly, the fill and the ports -/

/-- Everything but the engines' own state, guest memory, the offload context and the ports is the same. -/
structure SameBlock (s t : State) : Prop where
  regs : t.regs = s.regs
  irqLine : t.irqLine = s.irqLine
  itrHoldoff : t.itrHoldoff = s.itrHoldoff
  rxDropCount : t.rxDropCount = s.rxDropCount
  phy0 : t.phy0 = s.phy0
  bus : t.bus = s.bus
  mac : t.mac = s.mac
  holes : t.holes = s.holes
  inbox : t.inbox = s.inbox

theorem SameBlock.refl (s : State) : SameBlock s s := ⟨rfl, rfl, rfl, rfl, rfl, rfl, rfl, rfl, rfl⟩

theorem SameBlock.trans {s t u : State} (h : SameBlock s t) (k : SameBlock t u) : SameBlock s u :=
  ⟨k.regs.trans h.regs, k.irqLine.trans h.irqLine, k.itrHoldoff.trans h.itrHoldoff,
    k.rxDropCount.trans h.rxDropCount, k.phy0.trans h.phy0, k.bus.trans h.bus, k.mac.trans h.mac,
    k.holes.trans h.holes, k.inbox.trans h.inbox⟩

theorem memRead_sameBlock (a : Addr) (n : Nat) (s : State) : SameBlock s (memRead a n s).2 := by
  rw [memRead_state]; exact ⟨rfl, rfl, rfl, rfl, rfl, rfl, rfl, rfl, rfl⟩

theorem memWrite_sameBlock (a : Addr) (v : List Byte) (s : State) : SameBlock s (memWrite a v s).2 := by
  rcases memWrite_cases a v s with ⟨_, h⟩ | ⟨_, h⟩ <;> rw [h] <;> exact ⟨rfl, rfl, rfl, rfl, rfl, rfl, rfl, rfl, rfl⟩

/-- `memWrite` leaves every byte outside its range as it was. -/
theorem memWrite_read_other (a : Addr) (v : List Byte) (s : State) (k : Nat)
    (h : k < a.toNat ∨ a.toNat + v.length ≤ k) : Memory.read (memWrite a v s).2.mem k = Memory.read s.mem k := by
  rcases memWrite_cases a v s with ⟨_, e⟩ | ⟨_, e⟩ <;> rw [e]
  · exact Memory.read_writeRange_other v s.mem a.toNat k h
  · rfl

theorem memWrite_keeps_wf (a : Addr) (v : List Byte) (s : State) (h : Memory.wf s.mem = true) :
    Memory.wf (memWrite a v s).2.mem = true := by
  rcases memWrite_cases a v s with ⟨hm, e⟩ | ⟨_, e⟩ <;> rw [e]
  · exact Memory.writeRange_keeps_wf v s.mem a.toNat (mappable_bound _ _ _ hm) h
  · exact h

/-! ### The interrupt line -/

/-- `evaluate` asserts the line, deasserts it, or changes nothing. -/
theorem evaluate_cases (s : State) :
    (irqWanted s = true ∧ s.irqLine = false ∧ s.itrHoldoff = 0#16 ∧
        evaluate s = { setLine true s with itrHoldoff := itrInterval s }) ∨
      (irqWanted s = false ∧ s.irqLine = true ∧ evaluate s = setLine false s) ∨
      ((irqWanted s = true → s.irqLine = false → s.itrHoldoff ≠ 0#16) ∧
        (irqWanted s = false → s.irqLine = false) ∧ evaluate s = s) := by
  unfold evaluate
  cases hw : irqWanted s <;> cases hl : s.irqLine <;> by_cases hh : s.itrHoldoff = 0#16 <;> simp_all

@[simp] theorem evaluate_regs (s : State) : (evaluate s).regs = s.regs := by
  rcases evaluate_cases s with ⟨_, _, _, h⟩ | ⟨_, _, h⟩ | ⟨_, _, h⟩ <;> rw [h] <;> rfl

@[simp] theorem evaluate_mem (s : State) : (evaluate s).mem = s.mem := by
  rcases evaluate_cases s with ⟨_, _, _, h⟩ | ⟨_, _, h⟩ | ⟨_, _, h⟩ <;> rw [h] <;> rfl

@[simp] theorem evaluate_txctx (s : State) : (evaluate s).txctx = s.txctx := by
  rcases evaluate_cases s with ⟨_, _, _, h⟩ | ⟨_, _, h⟩ | ⟨_, _, h⟩ <;> rw [h] <;> rfl

@[simp] theorem evaluate_rxDropCount (s : State) : (evaluate s).rxDropCount = s.rxDropCount := by
  rcases evaluate_cases s with ⟨_, _, _, h⟩ | ⟨_, _, h⟩ | ⟨_, _, h⟩ <;> rw [h] <;> rfl

@[simp] theorem evaluate_phy0 (s : State) : (evaluate s).phy0 = s.phy0 := by
  rcases evaluate_cases s with ⟨_, _, _, h⟩ | ⟨_, _, h⟩ | ⟨_, _, h⟩ <;> rw [h] <;> rfl

@[simp] theorem evaluate_bus (s : State) : (evaluate s).bus = s.bus := by
  rcases evaluate_cases s with ⟨_, _, _, h⟩ | ⟨_, _, h⟩ | ⟨_, _, h⟩ <;> rw [h] <;> rfl

@[simp] theorem evaluate_tx (s : State) : (evaluate s).tx = s.tx := by
  rcases evaluate_cases s with ⟨_, _, _, h⟩ | ⟨_, _, h⟩ | ⟨_, _, h⟩ <;> rw [h] <;> rfl

@[simp] theorem evaluate_rx (s : State) : (evaluate s).rx = s.rx := by
  rcases evaluate_cases s with ⟨_, _, _, h⟩ | ⟨_, _, h⟩ | ⟨_, _, h⟩ <;> rw [h] <;> rfl

@[simp] theorem evaluate_mac (s : State) : (evaluate s).mac = s.mac := by
  rcases evaluate_cases s with ⟨_, _, _, h⟩ | ⟨_, _, h⟩ | ⟨_, _, h⟩ <;> rw [h] <;> rfl

@[simp] theorem evaluate_holes (s : State) : (evaluate s).holes = s.holes := by
  rcases evaluate_cases s with ⟨_, _, _, h⟩ | ⟨_, _, h⟩ | ⟨_, _, h⟩ <;> rw [h] <;> rfl

@[simp] theorem evaluate_inbox (s : State) : (evaluate s).inbox = s.inbox := by
  rcases evaluate_cases s with ⟨_, _, _, h⟩ | ⟨_, _, h⟩ | ⟨_, _, h⟩ <;> rw [h] <;> rfl

/-- `raiseCause` sets the cause bits and evaluates. -/
@[simp] theorem raiseCause_regs (b : Word) (s : State) : (raiseCause b s).regs = s.regs.set (s.reg .icr ||| b) .icr := by
  simp [raiseCause]

@[simp] theorem raiseCause_mem (b : Word) (s : State) : (raiseCause b s).mem = s.mem := by simp [raiseCause]
@[simp] theorem raiseCause_txctx (b : Word) (s : State) : (raiseCause b s).txctx = s.txctx := by simp [raiseCause]
@[simp] theorem raiseCause_rxDropCount (b : Word) (s : State) : (raiseCause b s).rxDropCount = s.rxDropCount := by
  simp [raiseCause]
@[simp] theorem raiseCause_phy0 (b : Word) (s : State) : (raiseCause b s).phy0 = s.phy0 := by simp [raiseCause]
@[simp] theorem raiseCause_bus (b : Word) (s : State) : (raiseCause b s).bus = s.bus := by simp [raiseCause]
@[simp] theorem raiseCause_tx (b : Word) (s : State) : (raiseCause b s).tx = s.tx := by simp [raiseCause]
@[simp] theorem raiseCause_rx (b : Word) (s : State) : (raiseCause b s).rx = s.rx := by simp [raiseCause]
@[simp] theorem raiseCause_mac (b : Word) (s : State) : (raiseCause b s).mac = s.mac := by simp [raiseCause]
@[simp] theorem raiseCause_holes (b : Word) (s : State) : (raiseCause b s).holes = s.holes := by simp [raiseCause]
@[simp] theorem raiseCause_inbox (b : Word) (s : State) : (raiseCause b s).inbox = s.inbox := by simp [raiseCause]

/-! ### Reset and the timer -/

/-- `deviceReset` gives every piece of the block's state its reset value; the line's fall is the one event it can make. -/
theorem deviceReset_eq (s : State) :
    deviceReset s =
      { s with
        regs := RegFile.reset, txctx := TxCtx.reset, rxDropCount := 0#32, phy0 := 0x1140#16, itrHoldoff := 0#16
        irqLine := false, out := s.out ++ (if s.irqLine then [.irq false] else []) } := by
  unfold deviceReset
  cases h : s.irqLine <;> simp [setLine, State.emit]

/-- `tick` at an expired holdoff does nothing; otherwise it counts down and evaluates at expiry. -/
theorem tick_cases (s : State) :
    (s.itrHoldoff = 0#16 ∧ tick s = s) ∨
      (s.itrHoldoff = 1#16 ∧ tick s = evaluate { s with itrHoldoff := 0#16 }) ∨
      (s.itrHoldoff ≠ 0#16 ∧ s.itrHoldoff ≠ 1#16 ∧ tick s = { s with itrHoldoff := s.itrHoldoff - 1#16 }) := by
  unfold tick
  by_cases h0 : s.itrHoldoff = 0#16
  · simp [h0]
  · by_cases h1 : s.itrHoldoff = 1#16
    · simp [h1]
    · have h2 : s.itrHoldoff - 1#16 ≠ 0#16 := by
        intro h; exact h1 (by simpa using congrArg (· + 1#16) h)
      simp [h0, h1, h2]

end Sys2Proof.Machine
end

