-- ==== Sys2Proof/Laws/PerInstr.lean ====
section
/-! SUPPORT. Every operation's encoding has the format that spec/opcode_table.json gives its row. -/

namespace Sys2Proof.Laws.FormatAgrees

/-- The encoding of an operation has its row's format (30_encoding.md R110). -/
def Statement (i : Instr) : Prop := (encode i).format = i.format

theorem encodeWrite_format (off : Nat) (wv : Word) (be : BitVec 4) : (encodeWrite off wv be).format = .dwop := by
  unfold encodeWrite; split <;> rfl

theorem rdCtrl : Statement .rdCtrl := rfl
theorem wrCtrl (wv : Word) (be : BitVec 4) : Statement (.wrCtrl wv be) := encodeWrite_format _ _ _
theorem rdStatus : Statement .rdStatus := rfl
theorem wrStatus (wv : Word) (be : BitVec 4) : Statement (.wrStatus wv be) := encodeWrite_format _ _ _
theorem rdEerd : Statement .rdEerd := rfl
theorem wrEerd (wv : Word) (be : BitVec 4) : Statement (.wrEerd wv be) := encodeWrite_format _ _ _
theorem rdMdic : Statement .rdMdic := rfl
theorem wrMdic (wv : Word) (be : BitVec 4) : Statement (.wrMdic wv be) := encodeWrite_format _ _ _
theorem rdIcr : Statement .rdIcr := rfl
theorem wrIcr (wv : Word) (be : BitVec 4) : Statement (.wrIcr wv be) := encodeWrite_format _ _ _
theorem rdItr : Statement .rdItr := rfl
theorem wrItr (wv : Word) (be : BitVec 4) : Statement (.wrItr wv be) := encodeWrite_format _ _ _
theorem rdIcs : Statement .rdIcs := rfl
theorem wrIcs (wv : Word) (be : BitVec 4) : Statement (.wrIcs wv be) := encodeWrite_format _ _ _
theorem rdIms : Statement .rdIms := rfl
theorem wrIms (wv : Word) (be : BitVec 4) : Statement (.wrIms wv be) := encodeWrite_format _ _ _
theorem rdImc : Statement .rdImc := rfl
theorem wrImc (wv : Word) (be : BitVec 4) : Statement (.wrImc wv be) := encodeWrite_format _ _ _
theorem rdRctl : Statement .rdRctl := rfl
theorem wrRctl (wv : Word) (be : BitVec 4) : Statement (.wrRctl wv be) := encodeWrite_format _ _ _
theorem rdTctl : Statement .rdTctl := rfl
theorem wrTctl (wv : Word) (be : BitVec 4) : Statement (.wrTctl wv be) := encodeWrite_format _ _ _
theorem rdRdbal : Statement .rdRdbal := rfl
theorem wrRdbal (wv : Word) (be : BitVec 4) : Statement (.wrRdbal wv be) := encodeWrite_format _ _ _
theorem rdRdbah : Statement .rdRdbah := rfl
theorem wrRdbah (wv : Word) (be : BitVec 4) : Statement (.wrRdbah wv be) := encodeWrite_format _ _ _
theorem rdRdlen : Statement .rdRdlen := rfl
theorem wrRdlen (wv : Word) (be : BitVec 4) : Statement (.wrRdlen wv be) := encodeWrite_format _ _ _
theorem rdRdh : Statement .rdRdh := rfl
theorem wrRdh (wv : Word) (be : BitVec 4) : Statement (.wrRdh wv be) := encodeWrite_format _ _ _
theorem rdRdt : Statement .rdRdt := rfl
theorem wrRdt (wv : Word) (be : BitVec 4) : Statement (.wrRdt wv be) := encodeWrite_format _ _ _
theorem rdTdbal : Statement .rdTdbal := rfl
theorem wrTdbal (wv : Word) (be : BitVec 4) : Statement (.wrTdbal wv be) := encodeWrite_format _ _ _
theorem rdTdbah : Statement .rdTdbah := rfl
theorem wrTdbah (wv : Word) (be : BitVec 4) : Statement (.wrTdbah wv be) := encodeWrite_format _ _ _
theorem rdTdlen : Statement .rdTdlen := rfl
theorem wrTdlen (wv : Word) (be : BitVec 4) : Statement (.wrTdlen wv be) := encodeWrite_format _ _ _
theorem rdTdh : Statement .rdTdh := rfl
theorem wrTdh (wv : Word) (be : BitVec 4) : Statement (.wrTdh wv be) := encodeWrite_format _ _ _
theorem rdTdt : Statement .rdTdt := rfl
theorem wrTdt (wv : Word) (be : BitVec 4) : Statement (.wrTdt wv be) := encodeWrite_format _ _ _
theorem rdRxcsum : Statement .rdRxcsum := rfl
theorem wrRxcsum (wv : Word) (be : BitVec 4) : Statement (.wrRxcsum wv be) := encodeWrite_format _ _ _
theorem rdUnmapped (a : BitVec 24) : Statement (.rdUnmapped a) := rfl
theorem wrUnmapped (a : BitVec 24) (wv : Word) (be : BitVec 4) : Statement (.wrUnmapped a wv be) := encodeWrite_format _ _ _
theorem accessFault (c : AccessCause) (acc : Access) : Statement (.accessFault c acc) := rfl
theorem mdicRead (c : MdiFields) : Statement (.mdicRead c) := rfl
theorem mdicWrite (c : MdiFields) : Statement (.mdicWrite c) := rfl
theorem mdicReserved (op : BitVec 2) (pa : BitVec 5) (c : MdiFields) : Statement (.mdicReserved op pa c) := rfl
theorem eerdStart (n : Byte) (d : BitVec 16) : Statement (.eerdStart n d) := rfl
theorem txdLegacy (d : LegacyDesc) : Statement (.txdLegacy d) := rfl
theorem txdContext (d : ContextDesc) : Statement (.txdContext d) := rfl
theorem txdData (d : DataDesc) : Statement (.txdData d) := rfl
theorem txdReserved (d : ReservedDesc) : Statement (.txdReserved d) := rfl
theorem rxd (d : RxDesc) : Statement (.rxd d) := rfl
theorem rxFrame (f : List Byte) : Statement (.rxFrame f) := rfl
theorem timerTick : Statement .timerTick := rfl
theorem resetPoweron : Statement .resetPoweron := rfl

end Sys2Proof.Laws.FormatAgrees
end

