-- ==== Sys2Proof/Laws/Receive.lean ====
section
/-! SUPPORT. For each operation of the Receive Engine, what it can do and what it leaves unchanged. -/

namespace Sys2Proof.Machine

/-- `rxFetch` takes the descriptor at the head or skips it; the head passes it either way. -/
theorem rxFetch_cases (nr : Nat) (s : State) :
    (mappable s.holes (rxDescAddr s) Config.descSize = true ∧
        rxFetch nr s =
          (some (rxDescAddr s,
              decodeRxd (descInt (Memory.readRange s.mem (rxDescAddr s).toNat Config.descSize))),
            advanceRdh nr (s.emit (.memRead (rxDescAddr s) Config.descSize true)))) ∨
      (mappable s.holes (rxDescAddr s) Config.descSize = false ∧
        rxFetch nr s =
          (none,
            advanceRdh nr
              (raiseFault (.dma .rxDescFetch) (s.emit (.memRead (rxDescAddr s) Config.descSize false))))) := by
  unfold rxFetch
  rcases memRead_cases (rxDescAddr s) Config.descSize s with ⟨hm, e⟩ | ⟨hm, e⟩ <;> simp only [e, hm] <;> simp

/-- `rxWriteBack` writes eight bytes, or faults without writing. -/
theorem rxWriteBack_cases (a : Addr) (n : Nat) (c : BitVec 16) (st er : Byte) (s : State) :
    (mappable s.holes (a + 8#64) 8 = true ∧
        rxWriteBack a n c st er s =
          ({ s with mem := Memory.writeRange s.mem (a + 8#64).toNat (rxWriteBackBytes n c st er) } : State).emit
            (.memWrite (a + 8#64) (rxWriteBackBytes n c st er) true)) ∨
      (mappable s.holes (a + 8#64) 8 = false ∧
        rxWriteBack a n c st er s =
          raiseFault (.dma .rxWriteback)
            (s.emit (.memWrite (a + 8#64) (rxWriteBackBytes n c st er) false))) := by
  unfold rxWriteBack
  have hl : (rxWriteBackBytes n c st er).length = 8 := rfl
  rcases memWrite_cases (a + 8#64) (rxWriteBackBytes n c st er) s with ⟨hm, e⟩ | ⟨hm, e⟩ <;> rw [hl] at hm <;>
    simp only [e, hm] <;> simp

/-- `rxWriteBuffer` writes the chunk, faults without writing, or has nothing to write. -/
theorem rxWriteBuffer_cases (b : Addr) (v : List Byte) (s : State) :
    (v = [] ∧ rxWriteBuffer b v s = (false, s)) ∨
      (v ≠ [] ∧ mappable s.holes b v.length = true ∧
        rxWriteBuffer b v s =
          (false, ({ s with mem := Memory.writeRange s.mem b.toNat v } : State).emit (.memWrite b v true))) ∨
      (v ≠ [] ∧ mappable s.holes b v.length = false ∧
        rxWriteBuffer b v s = (true, raiseFault (.dma .rxBuffer) (s.emit (.memWrite b v false)))) := by
  unfold rxWriteBuffer
  cases v with
  | nil => simp
  | cons x xs =>
    rcases memWrite_cases b (x :: xs) s with ⟨hm, e⟩ | ⟨hm, e⟩ <;> simp only [e, hm] <;> simp

theorem rxWriteBack_sameBlock (a : Addr) (n : Nat) (c : BitVec 16) (st er : Byte) (s : State) :
    SameBlock s (rxWriteBack a n c st er s) := by
  rcases rxWriteBack_cases a n c st er s with ⟨_, e⟩ | ⟨_, e⟩ <;> rw [e] <;>
    exact ⟨rfl, rfl, rfl, rfl, rfl, rfl, rfl, rfl, rfl⟩

theorem rxWriteBuffer_sameBlock (b : Addr) (v : List Byte) (s : State) : SameBlock s (rxWriteBuffer b v s).2 := by
  rcases rxWriteBuffer_cases b v s with ⟨_, e⟩ | ⟨_, _, e⟩ | ⟨_, _, e⟩ <;> rw [e] <;>
    exact ⟨rfl, rfl, rfl, rfl, rfl, rfl, rfl, rfl, rfl⟩

theorem rxWriteBack_keeps_wf (a : Addr) (n : Nat) (c : BitVec 16) (st er : Byte) (s : State)
    (h : Memory.wf s.mem = true) : Memory.wf (rxWriteBack a n c st er s).mem = true := by
  rcases rxWriteBack_cases a n c st er s with ⟨hm, e⟩ | ⟨_, e⟩ <;> rw [e]
  · exact Memory.writeRange_keeps_wf _ _ _ (mappable_bound _ _ _ hm) h
  · exact h

theorem rxWriteBuffer_keeps_wf (b : Addr) (v : List Byte) (s : State) (h : Memory.wf s.mem = true) :
    Memory.wf (rxWriteBuffer b v s).2.mem = true := by
  rcases rxWriteBuffer_cases b v s with ⟨_, e⟩ | ⟨_, hm, e⟩ | ⟨_, _, e⟩ <;> rw [e]
  · exact h
  · exact Memory.writeRange_keeps_wf _ _ _ (mappable_bound _ _ _ hm) h
  · exact h

theorem rxFillOne_sameBlock (b : Addr) (s : State) : SameBlock s (rxFillOne b s) := by
  unfold rxFillOne
  split
  · exact SameBlock.refl s
  · split
    · exact SameBlock.refl s
    · exact ((rxWriteBuffer_sameBlock _ _ s).trans (rxWriteBack_sameBlock _ _ _ _ _ _)).trans
        ⟨rfl, rfl, rfl, rfl, rfl, rfl, rfl, rfl, rfl⟩

theorem rxFillOne_keeps_wf (b : Addr) (s : State) (h : Memory.wf s.mem = true) :
    Memory.wf (rxFillOne b s).mem = true := by
  unfold rxFillOne
  split
  · exact h
  · split
    · exact h
    · exact rxWriteBack_keeps_wf _ _ _ _ _ _ (rxWriteBuffer_keeps_wf _ _ _ h)

/-- `rxDrop` records RingOverrun and counts, and changes nothing else. -/
theorem rxDrop_eq (s : State) :
    rxDrop s =
      { s with
        rxDropCount := if s.rxDropCount = 0xFFFFFFFF#32 then s.rxDropCount else s.rxDropCount + 1#32
        out := s.out ++ [.raised .ringOverrun] } := rfl

end Sys2Proof.Machine
end

