-- ==== Sys2Proof/Laws/Transmit.lean ====
section
/-! SUPPORT. For each operation of the Transmit Engine, what it can do and what it leaves unchanged. -/

namespace Sys2Proof.Machine

/-! ### Gathering a buffer -/

/-- `gatherBuffer` reads nothing for length 0; otherwise it reads the buffer and appends it, drops it, or fails. -/
theorem gatherBuffer_cases (a : Addr) (len : Nat) (s : State) :
    (len = 0 ∧ gatherBuffer a len s = (false, s)) ∨
      (len ≠ 0 ∧ mappable s.holes a len = false ∧
        gatherBuffer a len s = (true, poisonPacket (raiseFault (.dma .txBuffer) (s.emit (.memRead a len false))))) ∨
      (len ≠ 0 ∧ mappable s.holes a len = true ∧ s.tx.poison = true ∧
        gatherBuffer a len s = (false, s.emit (.memRead a len true))) ∨
      (len ≠ 0 ∧ mappable s.holes a len = true ∧ s.tx.poison = false ∧ Config.txFrameMax < s.tx.asm.length + len ∧
        gatherBuffer a len s =
          (true, poisonPacket (raiseFault (.dma .txFrameOverflow) (s.emit (.memRead a len true))))) ∨
      (len ≠ 0 ∧ mappable s.holes a len = true ∧ s.tx.poison = false ∧ s.tx.asm.length + len ≤ Config.txFrameMax ∧
        gatherBuffer a len s =
          (false,
            { s.emit (.memRead a len true) with
              tx := { s.tx with asm := s.tx.asm ++ Memory.readRange s.mem a.toNat len } })) := by
  unfold gatherBuffer
  by_cases h0 : len = 0
  · simp [h0]
  · rcases memRead_cases a len s with ⟨hm, e⟩ | ⟨hm, e⟩
    · rw [e]
      cases hp : s.tx.poison
      · by_cases ho : Config.txFrameMax < s.tx.asm.length + len
        · simp [h0, hm, hp, ho]
        · simp [h0, hm, hp, ho, Nat.le_of_not_lt ho]
      · simp [h0, hm, hp]
    · rw [e]; simp [h0, hm]

theorem gatherBuffer_sameBlock (a : Addr) (len : Nat) (s : State) : SameBlock s (gatherBuffer a len s).2 := by
  rcases gatherBuffer_cases a len s with ⟨_, e⟩ | ⟨_, _, e⟩ | ⟨_, _, _, e⟩ | ⟨_, _, _, _, e⟩ | ⟨_, _, _, _, e⟩ <;>
    rw [e] <;> exact ⟨rfl, rfl, rfl, rfl, rfl, rfl, rfl, rfl, rfl⟩

@[simp] theorem gatherBuffer_mem (a : Addr) (len : Nat) (s : State) : (gatherBuffer a len s).2.mem = s.mem := by
  rcases gatherBuffer_cases a len s with ⟨_, e⟩ | ⟨_, _, e⟩ | ⟨_, _, _, e⟩ | ⟨_, _, _, _, e⟩ | ⟨_, _, _, _, e⟩ <;>
    rw [e] <;> rfl

@[simp] theorem gatherBuffer_txctx (a : Addr) (len : Nat) (s : State) : (gatherBuffer a len s).2.txctx = s.txctx := by
  rcases gatherBuffer_cases a len s with ⟨_, e⟩ | ⟨_, _, e⟩ | ⟨_, _, _, e⟩ | ⟨_, _, _, _, e⟩ | ⟨_, _, _, _, e⟩ <;>
    rw [e] <;> rfl

@[simp] theorem gatherBuffer_rx (a : Addr) (len : Nat) (s : State) : (gatherBuffer a len s).2.rx = s.rx := by
  rcases gatherBuffer_cases a len s with ⟨_, e⟩ | ⟨_, _, e⟩ | ⟨_, _, _, e⟩ | ⟨_, _, _, _, e⟩ | ⟨_, _, _, _, e⟩ <;>
    rw [e] <;> rfl

/-! ### The end of a packet -/

/-- `sendAll` only puts the frames on the port, in order. -/
theorem sendAll_eq (fs : List (List Byte)) (s : State) :
    sendAll fs s = { s with out := s.out ++ fs.map .send } := by
  unfold sendAll
  induction fs generalizing s with
  | nil => simp
  | cons f fs ih => rw [List.foldl_cons, ih]; simp [State.emit]

/-- `txComplete` sends the frames of the packet, after OffloadError if the offload failed. -/
theorem txComplete_eq (ic : Option (Byte × Byte)) (s : State) :
    txComplete ic s =
      ((packetFrames s.txctx s.tx ic).2,
        { s with
          out := s.out ++ (if (packetFrames s.txctx s.tx ic).2 then [.raised (.offload .txOffload)] else [])
            ++ (packetFrames s.txctx s.tx ic).1.map .send }) := by
  simp only [txComplete, sendAll_eq]
  cases (packetFrames s.txctx s.tx ic).2 <;> simp [raiseFault, State.emit]

/-- `endPacket` does nothing without EOP, drops a poisoned or empty packet, and sends any other. -/
theorem endPacket_cases (eop : Bool) (ic : Option (Byte × Byte)) (s : State) :
    (eop = false ∧ endPacket eop ic s = (false, s)) ∨
      (eop = true ∧ (s.tx.poison = true ∨ s.tx.asm = []) ∧ endPacket eop ic s = (false, clearPacket s)) ∨
      (eop = true ∧ s.tx.poison = false ∧ s.tx.asm ≠ [] ∧
        endPacket eop ic s = ((txComplete ic s).1, clearPacket (txComplete ic s).2)) := by
  unfold endPacket
  cases eop
  · simp
  · cases hp : s.tx.poison
    · cases ha : s.tx.asm <;> simp
    · simp

theorem endPacket_sameBlock (eop : Bool) (ic : Option (Byte × Byte)) (s : State) :
    SameBlock s (endPacket eop ic s).2 := by
  rcases endPacket_cases eop ic s with ⟨_, e⟩ | ⟨_, _, e⟩ | ⟨_, _, _, e⟩ <;> rw [e]
  · exact SameBlock.refl s
  · exact ⟨rfl, rfl, rfl, rfl, rfl, rfl, rfl, rfl, rfl⟩
  · rw [txComplete_eq]; exact ⟨rfl, rfl, rfl, rfl, rfl, rfl, rfl, rfl, rfl⟩

@[simp] theorem endPacket_mem (eop : Bool) (ic : Option (Byte × Byte)) (s : State) :
    (endPacket eop ic s).2.mem = s.mem := by
  rcases endPacket_cases eop ic s with ⟨_, e⟩ | ⟨_, _, e⟩ | ⟨_, _, _, e⟩ <;> rw [e]
  · rfl
  · rw [txComplete_eq]; rfl

@[simp] theorem endPacket_txctx (eop : Bool) (ic : Option (Byte × Byte)) (s : State) :
    (endPacket eop ic s).2.txctx = s.txctx := by
  rcases endPacket_cases eop ic s with ⟨_, e⟩ | ⟨_, _, e⟩ | ⟨_, _, _, e⟩ <;> rw [e]
  · rfl
  · rw [txComplete_eq]; rfl

@[simp] theorem endPacket_rx (eop : Bool) (ic : Option (Byte × Byte)) (s : State) :
    (endPacket eop ic s).2.rx = s.rx := by
  rcases endPacket_cases eop ic s with ⟨_, e⟩ | ⟨_, _, e⟩ | ⟨_, _, _, e⟩ <;> rw [e]
  · rfl
  · rw [txComplete_eq]; rfl

/-! ### Write-back -/

/-- `txWriteBack` writes one byte, faults without writing, or has nothing to write. -/
theorem txWriteBack_cases (rsv : BitVec 4) (sta : Option (BitVec 4)) (s : State) :
    (sta = none ∧ txWriteBack rsv sta s = s) ∨
      (∃ v, sta = some v ∧ mappable s.holes (txDescAddr s + 12#64) 1 = true ∧
        txWriteBack rsv sta s =
          ({ s with mem := Memory.write s.mem (txDescAddr s + 12#64).toNat (rsv ++ v) } : State).emit
            (.memWrite (txDescAddr s + 12#64) [rsv ++ v] true)) ∨
      (∃ v, sta = some v ∧ mappable s.holes (txDescAddr s + 12#64) 1 = false ∧
        txWriteBack rsv sta s =
          raiseFault (.dma .txWriteback) (s.emit (.memWrite (txDescAddr s + 12#64) [rsv ++ v] false))) := by
  cases sta with
  | none => exact .inl ⟨rfl, rfl⟩
  | some v =>
    rcases memWrite_cases (txDescAddr s + 12#64) [rsv ++ v] s with ⟨hm, e⟩ | ⟨hm, e⟩
    · exact .inr (.inl ⟨v, rfl, hm, by simp only [txWriteBack, e]; rfl⟩)
    · exact .inr (.inr ⟨v, rfl, hm, by simp only [txWriteBack, e]⟩)

theorem txWriteBack_sameBlock (rsv : BitVec 4) (sta : Option (BitVec 4)) (s : State) :
    SameBlock s (txWriteBack rsv sta s) := by
  rcases txWriteBack_cases rsv sta s with ⟨_, e⟩ | ⟨v, _, _, e⟩ | ⟨v, _, _, e⟩ <;> rw [e] <;>
    exact ⟨rfl, rfl, rfl, rfl, rfl, rfl, rfl, rfl, rfl⟩

@[simp] theorem txWriteBack_txctx (rsv : BitVec 4) (sta : Option (BitVec 4)) (s : State) :
    (txWriteBack rsv sta s).txctx = s.txctx := by
  rcases txWriteBack_cases rsv sta s with ⟨_, e⟩ | ⟨v, _, _, e⟩ | ⟨v, _, _, e⟩ <;> rw [e] <;> rfl

@[simp] theorem txWriteBack_tx (rsv : BitVec 4) (sta : Option (BitVec 4)) (s : State) :
    (txWriteBack rsv sta s).tx = s.tx := by
  rcases txWriteBack_cases rsv sta s with ⟨_, e⟩ | ⟨v, _, _, e⟩ | ⟨v, _, _, e⟩ <;> rw [e] <;> rfl

@[simp] theorem txWriteBack_rx (rsv : BitVec 4) (sta : Option (BitVec 4)) (s : State) :
    (txWriteBack rsv sta s).rx = s.rx := by
  rcases txWriteBack_cases rsv sta s with ⟨_, e⟩ | ⟨v, _, _, e⟩ | ⟨v, _, _, e⟩ <;> rw [e] <;> rfl

theorem txWriteBack_read_other (rsv : BitVec 4) (sta : Option (BitVec 4)) (s : State) (k : Nat)
    (h : k ≠ (txDescAddr s + 12#64).toNat) : Memory.read (txWriteBack rsv sta s).mem k = Memory.read s.mem k := by
  rcases txWriteBack_cases rsv sta s with ⟨_, e⟩ | ⟨v, _, _, e⟩ | ⟨v, _, _, e⟩ <;> rw [e]
  · exact Memory.read_write_other _ _ _ _ h
  · rfl

theorem txWriteBack_keeps_wf (rsv : BitVec 4) (sta : Option (BitVec 4)) (s : State) (h : Memory.wf s.mem = true) :
    Memory.wf (txWriteBack rsv sta s).mem = true := by
  rcases txWriteBack_cases rsv sta s with ⟨_, e⟩ | ⟨v, _, _, e⟩ | ⟨v, _, _, e⟩ <;> rw [e]
  · exact h
  · exact Memory.write_keeps_wf _ _ _ (BitVec.isLt _) h
  · exact h

/-! ### A descriptor's step -/

theorem startPacket_sameBlock (k : TxKind) (b : Bool) (p : Byte) (s : State) : SameBlock s (startPacket k b p s) := by
  constructor <;> simp

theorem finishDesc_sameBlock (rs : Bool) (rsv : BitVec 4) (f o : Bool) (s : State) :
    SameBlock s (finishDesc rs rsv f o s) :=
  (txWriteBack_sameBlock rsv (txStatus rs f o) s).trans ⟨rfl, rfl, rfl, rfl, rfl, rfl, rfl, rfl, rfl⟩

theorem runTxd_sameBlock (d : TxDesc) (s : State) : SameBlock s (runTxd d s) := by
  cases d with
  | legacy d =>
    exact ((startPacket_sameBlock _ _ _ s).trans (gatherBuffer_sameBlock _ _ _)).trans
      ((endPacket_sameBlock _ _ _).trans (finishDesc_sameBlock _ _ _ _ _))
  | data d =>
    exact ((startPacket_sameBlock _ _ _ s).trans (gatherBuffer_sameBlock _ _ _)).trans
      ((endPacket_sameBlock _ _ _).trans (finishDesc_sameBlock _ _ _ _ _))
  | context d =>
    have h := finishDesc_sameBlock d.rs d.rsv false false
      { s with
        txctx :=
          { ipcss := d.ipcss, ipcso := d.ipcso, ipcse := d.ipcse, tucss := d.tucss, tucso := d.tucso, tucse := d.tucse
            paylen := d.paylen, hdrlen := d.hdrlen, mss := d.mss, tcp := d.tcp, ip4 := d.ip, ctse := d.tse } }
    exact ⟨h.1, h.2, h.3, h.4, h.5, h.6, h.7, h.8, h.9⟩
  | reserved d =>
    refine (startPacket_sameBlock .legacy false 0#8 s).trans (SameBlock.trans ?_ (finishDesc_sameBlock _ _ _ _ _))
    split <;> exact ⟨rfl, rfl, rfl, rfl, rfl, rfl, rfl, rfl, rfl⟩

/-- The address of the descriptor at the head depends on the registers only. -/
theorem txDescAddr_congr {s t : State} (h : t.regs = s.regs) : txDescAddr t = txDescAddr s := by
  simp only [txDescAddr, tdba, txHead, State.reg, h]

/-- A step fetches the descriptor at the head and runs it, or skips it. -/
theorem txStep_cases (s : State) :
    (mappable s.holes (txDescAddr s) Config.descSize = true ∧
        txStep s =
          runTxd (decodeTxd (descInt (Memory.readRange s.mem (txDescAddr s).toNat Config.descSize)))
            (s.emit (.memRead (txDescAddr s) Config.descSize true))) ∨
      (mappable s.holes (txDescAddr s) Config.descSize = false ∧
        txStep s =
          clearPacket
            (raiseFault (.dma .txDescFetch) (s.emit (.memRead (txDescAddr s) Config.descSize false)))) := by
  unfold txStep
  rcases memRead_cases (txDescAddr s) Config.descSize s with ⟨hm, e⟩ | ⟨hm, e⟩ <;> rw [e] <;> simp [hm]

theorem txStep_sameBlock (s : State) : SameBlock s (txStep s) := by
  rcases txStep_cases s with ⟨_, e⟩ | ⟨_, e⟩ <;> rw [e]
  · exact SameBlock.trans (t := s.emit (.memRead (txDescAddr s) Config.descSize true))
      ⟨rfl, rfl, rfl, rfl, rfl, rfl, rfl, rfl, rfl⟩ (runTxd_sameBlock _ _)
  · exact ⟨rfl, rfl, rfl, rfl, rfl, rfl, rfl, rfl, rfl⟩

end Sys2Proof.Machine
end

