-- ==== Sys2Proof/Tests/Slice0.lean ====
section
/-! SUPPORT. The author's own tests: ill-formed terms, words written out from the spec's encodings, one step per test with
the values of spec/95_test_vectors.md, and for each statement with hypotheses a state and operands that meet them. -/

namespace Sys2Proof.Tests

open Sys2Proof Sys2Proof.Machine

-- each theorem is checked before the next one starts: a thread for each would need too much memory
set_option Elab.async false

/-! ### Helpers -/

/-- The state after the next step. -/
def stepped (s : State) : State :=
  match step s with
  | .next t => t
  | .fault _ => s
  | .refused _ => s

/-- The state after one operation. -/
def after (o : Operation) (s : State) : State := stepped (schedule o s)

/-- The state an operation of the table leaves. -/
def ran (i : Instr) (s : State) : State :=
  match exec i s with
  | .next t => t
  | .fault _ => s
  | .refused _ => s

/-- The access of an access word (30_encoding.md R90). -/
def acc (w : Word) (wdata : BitVec 64) : Operation :=
  match accessOfWord w wdata with
  | .ok a => .access a
  | .error _ => .tick

/-- The answer of a read from a state: the port events of the step. -/
def answer (w : Word) (s : State) : List PortEvent := (after (acc w 0#64) s).out

/-- Reset, then one register at a value. -/
def withReg (r : Reg) (v : Word) : State := State.reset.setReg r v

/-- The transport maps nothing at or above 0x80000000 (95_test_vectors.md). -/
def holes2G : List Hole := [⟨0x80000000, 0x80000000 * 0x1FFFFFFFF, false⟩]

/-- The common setup of the TX vectors: a ring of 8 at 0x10000 and IMS 0x81, with memory contents. -/
def txState (mem : Memory) : State :=
  { State.reset with
    regs := { RegFile.reset with tdbal := 0x10000#32, tdlen := 128#32, ims := 0x81#32 }, mem := mem }

/-- The common setup of the RX vectors: a ring of 8 at 0x20000, IMS 0x80, a tail, and the eight buffers. -/
def rxState (tail : Word) : State :=
  { State.reset with
    regs := { RegFile.reset with rdbal := 0x20000#32, rdlen := 128#32, ims := 0x80#32, rdt := tail }
    mem := (List.range 8).foldl
      (fun m i => Memory.writeRange m (0x20000 + 16 * i) (leBytes 8 (0x30000 + 0x1000 * i))) [] }

/-- Guest memory with bytes at some addresses. -/
def memOf (parts : List (Nat × List Byte)) : Memory := parts.foldl (fun m p => Memory.writeRange m p.1 p.2) []

/-- Bytes from numbers. -/
def bytes (ns : List Nat) : List Byte := ns.map (BitVec.ofNat 8)

/-- An answer is a given next state. -/
def nexts : Result → State → Bool
  | .next u, t => decide (u = t)
  | .fault _, _ => false
  | .refused _, _ => false

theorem next_of {r : Result} {t : State} (h : nexts r t = true) : r = .next t := by
  cases r with
  | next u => simp only [nexts, decide_eq_true_eq] at h; rw [h]
  | fault _ => cases h
  | refused _ => cases h

/-! ### Ill-formed terms are refused, one for each check -/

theorem test_wf_enables : (Instr.wrRctl 0#32 0b0101#4).wf = false := by decide
theorem test_wf_no_enables : (Instr.wrTdt 0#32 0b0000#4).wf = false := by decide
theorem test_wf_disabled_lane : (Instr.wrItr 0x100#32 0b0001#4).wf = false := by decide
theorem test_wf_unmapped_misaligned : (Instr.rdUnmapped 0x5402#24).wf = false := by decide
theorem test_wf_unmapped_out_of_range : (Instr.rdUnmapped 0x20000#24).wf = false := by decide
theorem test_wf_unmapped_is_a_register : (Instr.rdUnmapped 0x3818#24).wf = false := by decide
theorem test_wf_unmapped_write_enables : (Instr.wrUnmapped 0x5400#24 0#32 0b1010#4).wf = false := by decide
theorem test_wf_fault_of_a_legal_access :
    (Instr.accessFault .misaligned ⟨.read, 8, 4, 0#64⟩).wf = false := by decide
theorem test_wf_fault_cause : (Instr.accessFault .misaligned ⟨.read, 0x1FFFC, 8, 0#64⟩).wf = false := by decide
theorem test_wf_reserved_is_a_read : (Instr.mdicReserved 0b10#2 1#5 ⟨false, 0#5, 0#16⟩).wf = false := by decide
theorem test_wf_reserved_is_a_write : (Instr.mdicReserved 0b01#2 1#5 ⟨false, 0#5, 0#16⟩).wf = false := by decide
theorem test_wf_reserved_kind :
    (Instr.txdReserved ⟨0#84, 1#4, false, false, false, false, false, false, false, 0#4, 0#4, 0#24⟩).wf = false := by
  decide

/-! ### What is no operation is refused by name -/

theorem test_refuse_reserved_bits : decode (.aw 0x06000008#32 0#64) = .error .reservedBits := by decide
theorem test_refuse_no_start : decode (.eecmd 0x00000200#32) = .error .notStart := by decide
theorem test_refuse_short_descriptor : decode (.txdesc (bytes [0, 0x10, 0])) = .error .badLength := by decide

/-! ### Decoding of words written out from the encodings -/

/-- A 32-bit read of a register's offset, as `0x02 ++ offset` (30_encoding.md R90, R96). -/
def reads (w : Word) (i : Instr) : Bool := decide (decode (.aw w 0#64) = .ok [i])

/-- A 32-bit write of 0x84, as `0x82 ++ offset`. -/
def writes (w : Word) (i : Word → BitVec 4 → Instr) : Bool :=
  decide (decode (.aw w 0x84#64) = .ok [i 0x84#32 0b1111#4])

theorem test_decode_reads_control :
    reads 0x02000000#32 .rdCtrl = true ∧
      reads 0x02000008#32 .rdStatus = true ∧
      reads 0x02000014#32 .rdEerd = true ∧
      reads 0x02000020#32 .rdMdic = true ∧
      reads 0x02000100#32 .rdRctl = true ∧
      reads 0x02000400#32 .rdTctl = true ∧
      reads 0x02005000#32 .rdRxcsum = true ∧
      reads 0x0201FFFC#32 (.rdUnmapped 0x1FFFC#24) = true := by decide
theorem test_decode_reads_interrupt :
    reads 0x020000C0#32 .rdIcr = true ∧
      reads 0x020000C4#32 .rdItr = true ∧
      reads 0x020000C8#32 .rdIcs = true ∧
      reads 0x020000D0#32 .rdIms = true ∧
      reads 0x020000D8#32 .rdImc = true := by decide
theorem test_decode_reads_receive_ring :
    reads 0x02002800#32 .rdRdbal = true ∧
      reads 0x02002804#32 .rdRdbah = true ∧
      reads 0x02002808#32 .rdRdlen = true ∧
      reads 0x02002810#32 .rdRdh = true ∧
      reads 0x02002818#32 .rdRdt = true := by decide
theorem test_decode_reads_transmit_ring :
    reads 0x02003800#32 .rdTdbal = true ∧
      reads 0x02003804#32 .rdTdbah = true ∧
      reads 0x02003808#32 .rdTdlen = true ∧
      reads 0x02003810#32 .rdTdh = true ∧
      reads 0x02003818#32 .rdTdt = true := by decide
theorem test_decode_writes_control :
    writes 0x82000000#32 .wrCtrl = true ∧
      writes 0x82000008#32 .wrStatus = true ∧
      writes 0x82000014#32 .wrEerd = true ∧
      writes 0x82000020#32 .wrMdic = true ∧
      writes 0x82000100#32 .wrRctl = true ∧
      writes 0x82000400#32 .wrTctl = true ∧
      writes 0x82005000#32 .wrRxcsum = true ∧
      writes 0x82005400#32 (.wrUnmapped 0x5400#24) = true := by decide
theorem test_decode_writes_interrupt :
    writes 0x820000C0#32 .wrIcr = true ∧
      writes 0x820000C4#32 .wrItr = true ∧
      writes 0x820000C8#32 .wrIcs = true ∧
      writes 0x820000D0#32 .wrIms = true ∧
      writes 0x820000D8#32 .wrImc = true := by decide
theorem test_decode_writes_receive_ring :
    writes 0x82002800#32 .wrRdbal = true ∧
      writes 0x82002804#32 .wrRdbah = true ∧
      writes 0x82002808#32 .wrRdlen = true ∧
      writes 0x82002810#32 .wrRdh = true ∧
      writes 0x82002818#32 .wrRdt = true := by decide
theorem test_decode_writes_transmit_ring :
    writes 0x82003800#32 .wrTdbal = true ∧
      writes 0x82003804#32 .wrTdbah = true ∧
      writes 0x82003808#32 .wrTdlen = true ∧
      writes 0x82003810#32 .wrTdh = true ∧
      writes 0x82003818#32 .wrTdt = true := by decide

/-- An 8-bit write at lane 1 and a 16-bit write at lane 2 (30_encoding.md R92). -/
theorem test_decode_lanes :
    decode (.aw 0x80003819#32 0xFFFFFF01#64) = .ok [.wrTdt 0x100#32 0b0010#4] ∧
      decode (.aw 0x810000C2#32 0xFFFF#64) = .ok [.wrIcr 0xFFFF0000#32 0b1100#4] := by decide

/-- DP16: width 3 has no access word; DP7, DP12: range is checked before alignment. -/
theorem test_decode_access_fault :
    decode (.access ⟨.read, 0, 3, 0#64⟩) = .ok [.accessFault .badWidth ⟨.read, 0, 3, 0#64⟩] ∧
      decode (.aw 0x0301FFFC#32 0#64) = .ok [.accessFault .outOfRange ⟨.read, 0x1FFFC, 8, 0#64⟩] ∧
      decode (.aw 0x0201FFFA#32 0#64) = .ok [.accessFault .misaligned ⟨.read, 0x1FFFA, 4, 0#64⟩] := by decide

/-- MD13, MD6, MD12 and MD10: OP is bits 27:26, PHYADD 25:21, REGADD 20:16, I is bit 29. -/
theorem test_decode_mdic :
    decode (.mdicmd 0x28210000#32) = .ok [.mdicRead ⟨true, 1#5, 0#16⟩] ∧
      decode (.mdicmd 0x04201340#32) = .ok [.mdicWrite ⟨false, 0#5, 0x1340#16⟩] ∧
      decode (.mdicmd 0x0C21ABCD#32) = .ok [.mdicReserved 0b11#2 1#5 ⟨false, 1#5, 0xABCD#16⟩] ∧
      decode (.mdicmd 0x08410000#32) = .ok [.mdicReserved 0b10#2 2#5 ⟨false, 1#5, 0#16⟩] := by decide

/-- EE9. -/
theorem test_decode_eerd_start : decode (.eecmd 0xABCD3F01#32) = .ok [.eerdStart 0x3F#8 0xABCD#16] := by decide

/-- OF1's descriptor: `len` 8, `cso` 6, `cmd` EOP|IC|RS, `css` 2. -/
theorem test_decode_txd_legacy :
    decode (.txdesc (bytes [0, 0x10, 0, 0, 0, 0, 0, 0, 8, 0, 6, 0x0D, 0, 2, 0, 0])) =
      .ok [.txdLegacy ⟨0x1000#64, 8#16, 6#8, true, false, true, true, false, false, false, 0#4, 0#4, 2#8, 0#16⟩] := by
  decide +kernel

/-- OF7's context: DEXT|TSE|IP|TCP, `paylen` 10, `hdrlen` 54, `mss` 4. -/
theorem test_decode_txd_context :
    decode (.txdesc (bytes [0x0E, 0x18, 0x21, 0, 0x22, 0x32, 0, 0, 0x0A, 0, 0, 0x27, 0, 0x36, 4, 0])) =
      .ok [.txdContext ⟨14#8, 24#8, 33#16, 34#8, 50#8, 0#16, 10#20, true, true, true, false, false, false, false,
        0#4, 0#4, 54#8, 4#16⟩] := by decide +kernel

/-- OF7's data descriptor: `len` 64, DEXT|RS|TSE|EOP, `popts` 3. -/
theorem test_decode_txd_data :
    decode (.txdesc (bytes [0, 0x10, 0, 0, 0, 0, 0, 0, 0x40, 0, 0x10, 0x2D, 0, 3, 0, 0])) =
      .ok [.txdData ⟨0x1000#64, 64#20, true, false, true, true, false, false, false, 0#4, 0#4, 3#8, 0#16⟩] := by
  decide +kernel

/-- DEXT with DTYP 2, EOP and RS (30_encoding.md R99). -/
theorem test_decode_txd_reserved :
    decode (.txdesc (bytes [0, 0, 0, 0, 0, 0, 0, 0, 0, 0, 0x20, 0x29, 0xF0, 0, 0, 0])) =
      .ok [.txdReserved ⟨0#84, 2#4, true, false, false, true, false, false, false, 0#4, 0xF#4, 0#24⟩] := by
  decide +kernel

/-- The receive descriptor of RX1, after its write-back. -/
theorem test_decode_rxd :
    decode (.rxdesc (bytes [0, 0, 3, 0, 0, 0, 0, 0, 0x3C, 0, 0x9B, 0x7C, 7, 0x80, 0, 0])) =
      .ok [.rxd ⟨0x30000#64, 0x3C#16, 0x7C9B#16, 7#8, 0x80#8, 0#16⟩] := by decide +kernel

theorem test_decode_events :
    decode (.frame (bytes [0x61])) = .ok [.rxFrame (bytes [0x61])] ∧ decode .tick = .ok [.timerTick] ∧
      decode .powerOn = .ok [.resetPoweron] := by decide

/-- The rows that the table gives bits, at their `match` values (spec/opcode_table.json). -/
theorem test_decode_table_words :
    decodeTableWord 32 0x80003818 = some (.wrTdt 0#32 0b0001#4) ∧
      decodeTableWord 32 0x08200000 = some (.mdicRead ⟨false, 0#5, 0#16⟩) ∧
      decodeTableWord 8 1 = some (.eerdStart 0#8 0#16) ∧
      decodeTableWord 32 1 = some (.eerdStart 0#8 0#16) ∧
      decodeTableWord 128 0x00000000200000000000000000000000 =
        some (.txdContext ⟨0#8, 0#8, 0#16, 0#8, 0#8, 0#16, 0#20, false, false, false, false, false, false, false,
          0#4, 0#4, 0#8, 0#16⟩) := by decide +kernel

/-! ### The dispatcher (95_test_vectors.md 2.1) -/

/-- DP2 and DP3. -/
theorem test_narrow_reads :
    answer 0x00000008#32 State.reset = [.response 0x83#64 false] ∧
      answer 0x0100000A#32 State.reset = [.response 0#64 false] := by decide +kernel
/-- DP5: ICR in the low dword, ITR in the high. -/
theorem test_rd_icr_and_itr :
    answer 0x030000C0#32 ((withReg .icr 0x81#32).setReg .itr 0x1234#32) = [.response 0x0000123400000081#64 false] := by
  decide +kernel
/-- DP19. -/
theorem test_wr_rdbal_and_rdbah :
    (after (acc 0x83002800#32 0xAAAAAAAA55555555#64) State.reset).regs =
      { RegFile.reset with rdbal := 0x55555550#32, rdbah := 0xAAAAAAAA#32 } := by decide +kernel
/-- DP17. -/
theorem test_wr_unmapped :
    after (acc 0x82005400#32 0x12005452#64) State.reset =
      { State.reset with out := [.response 0#64 false] } := by decide +kernel
/-- DP6. -/
theorem test_rd_unmapped : answer 0x0201FFFC#32 State.reset = [.response 0#64 false] := by decide +kernel
/-- DP18: a faulting write. -/
theorem test_access_fault :
    after (acc 0x82020000#32 5#64) State.reset =
      { State.reset with out := [.raised (.access .outOfRange), .response 0#64 true] } := by decide +kernel
/-- DP16. -/
theorem test_bad_width :
    (after (.access ⟨.write, 0, 3, 5#64⟩) State.reset).out =
      [.raised (.access .badWidth), .response 0#64 true] := by decide +kernel
/-- DP20: lane 1 alone rings the doorbell, and the ring of none is refused. -/
theorem test_wr_tdt_lane :
    after (acc 0x80003819#32 1#64) State.reset =
      { withReg .tdt 0x100#32 with out := [.response 0#64 false] } := by decide +kernel

/-! ### Control, status and ring registers (2.2) -/

/-- CR1. -/
theorem test_rd_ctrl :
    answer 0x02000000#32 (withReg .ctrl 0xFBFFFFFF#32) = [.response 0xFBFFFFFF#64 false] := by decide +kernel
/-- CR3. -/
theorem test_wr_ctrl_no_reset :
    (after (acc 0x81000000#32 0xFFFF#64) (withReg .tctl 0x0004010A#32)).regs =
      { RegFile.reset with ctrl := 0xFFFF#32, tctl := 0x0004010A#32 } := by decide +kernel
/-- CR4: lane 3 alone resets. -/
theorem test_wr_ctrl_reset :
    (after (acc 0x80000003#32 4#64) ((withReg .ctrl 0xFFFF#32).setReg .tctl 0x0004010A#32)).regs = RegFile.reset := by
  decide +kernel
/-- CR5 and DP1. -/
theorem test_rd_wr_status :
    answer 0x02000008#32 (after (acc 0x82000008#32 0xFFFFFFFF#64) State.reset) =
      [.response 0#64 false, .response 0x83#64 false] := by decide +kernel
/-- CR6. -/
theorem test_rctl :
    answer 0x02000100#32 (withReg .rctl 0x02010002#32) = [.response 0x02010002#64 false] ∧
      (ran (.wrRctl 0x02010002#32 0b1111#4) State.reset).regs = { RegFile.reset with rctl := 0x02010002#32 } ∧
      rxBufSize 0x02010002#32 = 16384 := by decide +kernel
/-- CR2: TCTL keeps every bit. -/
theorem test_tctl :
    answer 0x02000400#32 (withReg .tctl 0x0004010A#32) = [.response 0x0004010A#64 false] ∧
      (ran (.wrTctl 0xFFFFFFFF#32 0b1111#4) State.reset).regs = { RegFile.reset with tctl := 0xFFFFFFFF#32 } := by
  decide +kernel
/-- CR7. -/
theorem test_rd_rdbal :
    answer 0x02002800#32 (ran (.wrRdbal 0x1234567F#32 0b1111#4) State.reset) = [.response 0x12345670#64 false] := by
  decide +kernel
theorem test_rd_rdbah :
    answer 0x02002804#32 (ran (.wrRdbah 0xAABBCCDD#32 0b1111#4) State.reset) = [.response 0xAABBCCDD#64 false] := by
  decide +kernel
/-- CR9. -/
theorem test_rdlen :
    answer 0x02002808#32 (ran (.wrRdlen 0xFFFFFFFF#32 0b1111#4) State.reset) = [.response 0x000FFFF0#64 false] := by
  decide +kernel
/-- CR11's counterpart (41_control_regs.md R167): RDH discards writes. -/
theorem test_rdh :
    answer 0x02002810#32 (withReg .rdh 7#32) = [.response 7#64 false] ∧
      ran (.wrRdh 5#32 0b1111#4) State.reset = State.reset := by decide +kernel
theorem test_rdt :
    answer 0x02002818#32 (ran (.wrRdt 0x12345678#32 0b1111#4) State.reset) = [.response 0x5678#64 false] := by
  decide +kernel
theorem test_tdbal :
    answer 0x02003800#32 (ran (.wrTdbal 0x1001F#32 0b1111#4) State.reset) = [.response 0x10010#64 false] := by
  decide +kernel
theorem test_tdbah :
    answer 0x02003804#32 (ran (.wrTdbah 0xAABBCCDD#32 0b1111#4) State.reset) = [.response 0xAABBCCDD#64 false] := by
  decide +kernel
/-- CR8's counterpart on the transmit side. -/
theorem test_tdlen :
    answer 0x02003808#32 (ran (.wrTdlen 0x85#32 0b1111#4) State.reset) = [.response 0x80#64 false] := by
  decide +kernel
/-- CR11. -/
theorem test_tdh :
    answer 0x02003810#32 (withReg .tdh 5#32) = [.response 5#64 false] ∧
      ran (.wrTdh 5#32 0b1111#4) State.reset = State.reset := by decide +kernel
/-- CR10. -/
theorem test_rd_tdt :
    answer 0x02003818#32 (ran (.wrTdt 0x12345678#32 0b1111#4) State.reset) = [.response 0x5678#64 false] := by
  decide +kernel
/-- CR12. -/
theorem test_rxcsum :
    answer 0x02005000#32 (ran (.wrRxcsum 0xFFFFFFFF#32 0b1111#4) State.reset) = [.response 0x3FF#64 false] := by
  decide +kernel
/-- CR13. -/
theorem test_itr :
    answer 0x020000C4#32 (ran (.wrItr 0x00010010#32 0b1111#4) State.reset) = [.response 0x10#64 false] := by
  decide +kernel

/-! ### Interrupts and the coalescing timer (2.3, 2.4) -/

/-- A state with causes, a mask, a line, a throttle and a holdoff. -/
def irqState (icr ims : Word) (line : Bool) (itr : Word) (holdoff : BitVec 16) : State :=
  { (withReg .icr icr).setReg .ims ims with
    regs := { RegFile.reset with icr := icr, ims := ims, itr := itr }, irqLine := line, itrHoldoff := holdoff }

/-- IR2: reading clears nothing. -/
theorem test_rd_icr :
    after (acc 0x020000C0#32 0#64) (irqState 0x81#32 0#32 false 0#32 0#16) =
      { irqState 0x81#32 0#32 false 0#32 0#16 with out := [.response 0x81#64 false] } := by decide +kernel
/-- IR5. -/
theorem test_wr_icr :
    after (acc 0x820000C0#32 0x80#64) (irqState 0x80#32 0x80#32 true 0#32 0#16) =
      { irqState 0#32 0x80#32 false 0#32 0#16 with out := [.irq false, .response 0#64 false] } := by decide +kernel
/-- IR11: the high half of ICR clears nothing of the low half. -/
theorem test_wr_icr_lanes :
    (after (acc 0x810000C2#32 0xFFFF#64) (irqState 0x04#32 0x204#32 true 0#32 0#16)).regs.icr = 0x04#32 := by
  decide +kernel
/-- IR6, then TM2: the holdoff is loaded with ITR at an assertion. -/
theorem test_wr_ics :
    ran (.wrIcs 0x04#32 0b1111#4) (irqState 0#32 0x80#32 false 0#32 0#16) =
        irqState 0x04#32 0x80#32 false 0#32 0#16 ∧
      ran (.wrIcs 0x80#32 0b1111#4) (irqState 0#32 0x80#32 false 3#32 0#16) =
        { irqState 0x80#32 0x80#32 true 3#32 3#16 with out := [.irq true] } := by decide +kernel
/-- TM4: deferred. -/
theorem test_wr_ics_deferred :
    ran (.wrIcs 0x80#32 0b1111#4) (irqState 0#32 0x80#32 false 3#32 3#16) =
      irqState 0x80#32 0x80#32 false 3#32 3#16 := by decide +kernel
/-- IR3. -/
theorem test_wr_ims :
    ran (.wrIms 0x80#32 0b1111#4) (irqState 0x81#32 0#32 false 0#32 0#16) =
      { irqState 0x81#32 0x80#32 true 0#32 0#16 with out := [.irq true] } := by decide +kernel
/-- IR10. -/
theorem test_wr_ims_lane :
    (after (acc 0x800000D1#32 2#64) (irqState 0x04#32 0x04#32 true 0#32 0#16)).regs.ims = 0x204#32 := by
  decide +kernel
theorem test_rd_ims :
    answer 0x020000D0#32 (irqState 0#32 0x84#32 false 0#32 0#16) = [.response 0x84#64 false] := by decide +kernel
/-- IR8. -/
theorem test_wr_imc :
    ran (.wrImc 0xFFFFFFFF#32 0b1111#4) (irqState 0x04#32 0x84#32 true 0#32 0#16) =
      { irqState 0x04#32 0#32 false 0#32 0#16 with out := [.irq false] } := by decide +kernel
/-- IR12. -/
theorem test_rd_ics_imc :
    answer 0x020000C8#32 (irqState 0x04#32 0x204#32 true 0#32 0#16) = [.response 0#64 false] ∧
      answer 0x020000D8#32 (irqState 0x04#32 0x204#32 true 0#32 0#16) = [.response 0#64 false] := by decide +kernel
/-- TM5 and TM9. -/
theorem test_tick :
    after .tick (irqState 0x80#32 0x80#32 false 3#32 3#16) = irqState 0x80#32 0x80#32 false 3#32 2#16 ∧
      after .tick (irqState 0x80#32 0x80#32 true 3#32 0#16) = irqState 0x80#32 0x80#32 true 3#32 0#16 := by
  decide +kernel
/-- TM7: expiry and reload. -/
theorem test_tick_expires :
    after .tick (irqState 0x80#32 0x80#32 false 3#32 1#16) =
      { irqState 0x80#32 0x80#32 true 3#32 3#16 with out := [.irq true] } := by decide +kernel

/-! ### EEPROM window and MDI (2.5, 2.6) -/

/-- EE1 and EE6. -/
theorem test_rd_eerd :
    answer 0x02000014#32 State.reset = [.response 0x54520000#64 false] ∧
      answer 0x02000014#32 (withReg .eerd 0x3F10#32) = [.response 0xFE343F10#64 false] := by decide +kernel
/-- EE9. -/
theorem test_wr_eerd : ran (.wrEerd 0xABCD3F01#32 0b1111#4) State.reset = withReg .eerd 0x3F10#32 := by decide +kernel
/-- EE12: ADDR changes, DONE is kept. -/
theorem test_wr_eerd_lane :
    (after (acc 0x80000015#32 1#64) (withReg .eerd 0x210#32)).regs.eerd = 0x110#32 := by decide +kernel
/-- EE7's command: the row EERD.START is the command as written to EERD. -/
theorem test_eerd_start : ran (.eerdStart 0x40#8 0#16) State.reset = withReg .eerd 0x4010#32 := by decide +kernel
/-- EE14. -/
theorem test_eeprom_checksum : eepromWord ⟨0x00, 0x1B, 0x21, 0xAA, 0xBB, 0xCC⟩ 63 = 0x28DE#16 := by decide +kernel
/-- MD14, the second write: lane 3 runs the command. -/
theorem test_wr_mdic_lane :
    (after (acc 0x80000022#32 0x21#64) State.reset).regs.mdic = 0x00210000#32 ∧
      answer 0x02000020#32 (ran (.wrMdic 0x08000000#32 0b1000#4) (withReg .mdic 0x00210000#32)) =
        [.response 0x1821796D#64 false] := by decide +kernel
/-- MD13: the interrupt. -/
theorem test_wr_mdic_interrupt :
    ran (.wrMdic 0x28210000#32 0b1111#4) (withReg .ims 0x200#32) =
      { irqState 0x200#32 0x200#32 true 0#32 0#16 with
        regs := { RegFile.reset with icr := 0x200#32, ims := 0x200#32, mdic := 0x3821796D#32 }
        out := [.irq true] } := by decide +kernel
/-- MD1. -/
theorem test_mdic_read :
    ran (.mdicRead ⟨false, 0#5, 0#16⟩) State.reset = withReg .mdic 0x18201140#32 := by decide +kernel
/-- MD8, MD7 and MD9. -/
theorem test_mdic_write :
    ran (.mdicWrite ⟨false, 0#5, 0x7FFF#16⟩) State.reset =
        { withReg .mdic 0x14207FFF#32 with phy0 := 0x7DFF#16 } ∧
      (ran (.mdicWrite ⟨false, 0#5, 0x8000#16⟩) { State.reset with phy0 := 0x7DFF#16 }).phy0 = 0x1140#16 ∧
      ran (.mdicWrite ⟨false, 1#5, 0xFFFF#16⟩) State.reset = withReg .mdic 0x1421FFFF#32 := by decide +kernel
/-- MD10 and MD12. -/
theorem test_mdic_reserved :
    ran (.mdicReserved 0b10#2 2#5 ⟨false, 1#5, 0#16⟩) State.reset = withReg .mdic 0x58410000#32 ∧
      ran (.mdicReserved 0b11#2 1#5 ⟨false, 1#5, 0xABCD#16⟩) State.reset = withReg .mdic 0x5C21ABCD#32 := by
  decide +kernel

/-! ### Transmit engine and offloads (2.7, 2.8) -/

/-- The LEGACY descriptor `L(addr, len, cmd)` with `cso` and `css`. -/
def legacyBytes (addr len cmd cso css : Nat) : List Byte :=
  leBytes 8 addr ++ leBytes 2 len ++ bytes [cso, cmd, 0, css, 0, 0]

/-- The start of TX2: the second descriptor's buffer does not exist. -/
def tx2State : State :=
  { txState (memOf [(0x1000, List.replicate 4 0x11#8), (0x3000, List.replicate 4 0x33#8),
      (0x10000, legacyBytes 0x1000 4 9 0 0), (0x10010, legacyBytes 0xF0000000 4 1 0 0),
      (0x10020, legacyBytes 0x3000 4 9 0 0)]) with holes := holes2G }

/-- TX2 (P5): a malformed descriptor does not stop those after it. -/
theorem test_drain_with_a_bad_buffer :
    (ran (.wrTdt 3#32 0b1111#4) tx2State).out =
        [.memRead 0x10000#64 16 true, .memRead 0x1000#64 4 true, .send (List.replicate 4 0x11#8),
          .memWrite 0x1000C#64 [0x01#8] true, .memRead 0x10010#64 16 true, .memRead 0xF0000000#64 4 false,
          .raised (.dma .txBuffer), .memWrite 0x1001C#64 [0x03#8] true, .memRead 0x10020#64 16 true,
          .memRead 0x3000#64 4 true, .send (List.replicate 4 0x33#8), .memWrite 0x1002C#64 [0x01#8] true,
          .irq true] ∧
      (ran (.wrTdt 3#32 0b1111#4) tx2State).regs.tdh = 3#32 := by decide +kernel

/-- OF1's packet. -/
def of1State : State := txState (memOf [(0x1000, bytes [0, 1, 2, 3, 4, 5, 0, 0])])

/-- OF1. -/
theorem test_txd_legacy_checksum :
    sentFrames
        (ran (.txdLegacy ⟨0x1000#64, 8#16, 6#8, true, false, true, true, false, false, false, 0#4, 0#4, 2#8, 0#16⟩)
          of1State).out = [bytes [0, 1, 2, 3, 4, 5, 0xF9, 0xF7]] := by decide +kernel

/-- OF2: the checksum position is beyond the frame. -/
theorem test_txd_legacy_offload_error :
    (ran (.txdLegacy ⟨0x1000#64, 8#16, 7#8, true, false, true, false, false, false, false, 0#4, 0#4, 2#8, 0#16⟩)
        of1State).out =
      [.memRead 0x1000#64 8 true, .raised (.offload .txOffload), .send (bytes [0, 1, 2, 3, 4, 5, 0, 0]),
        .memWrite 0x1000C#64 [0x03#8] true] := by decide +kernel

/-- OF6's context descriptor. -/
def of6Context : ContextDesc :=
  ⟨14#8, 24#8, 33#16, 34#8, 40#8, 0#16, 0#20, false, true, false, false, false, false, false, 0#4, 0#4, 0#8, 0#16⟩

/-- OF6: what its context descriptor loads. -/
theorem test_txd_context :
    ran (.txdContext of6Context) State.reset =
      { State.reset with
        txctx := { TxCtx.reset with ipcss := 14#8, ipcso := 24#8, ipcse := 33#16, tucss := 34#8, tucso := 40#8
                                    ip4 := true } } := by decide +kernel

/-- OF6's frame, with the IPv4 checksum field and the UDP checksum field. -/
def udpFrame (ipHi ipLo udpHi udpLo : Nat) : List Byte :=
  bytes [0x02, 0, 0, 0, 0, 0x01, 0x52, 0x54, 0, 0x12, 0x34, 0x56, 0x08, 0,
    0x45, 0, 0, 0x22, 0x12, 0x34, 0, 0, 0x40, 0x11, ipHi, ipLo, 0x0A, 0, 0, 0x01, 0x0A, 0, 0, 0x02,
    0x04, 0xD2, 0x16, 0x2E, 0, 0x0E, udpHi, udpLo, 0x68, 0x65, 0x6C, 0x6C, 0x6F, 0x21]

/-- OF6's data descriptor under its context. -/
theorem test_txd_data_context_checksums :
    sentFrames
        (ran (.txdData ⟨0x1000#64, 48#20, true, false, false, true, false, false, false, 0#4, 0#4, 3#8, 0#16⟩)
          { txState (memOf [(0x1000, udpFrame 0 0 0x14 0x22)]) with
            txctx := { TxCtx.reset with ipcss := 14#8, ipcso := 24#8, ipcse := 33#16, tucss := 34#8, tucso := 40#8
                                        ip4 := true } }).out =
      [udpFrame 0x54 0x95 0x8C 0xDC] := by decide +kernel

/-- OF7's context: segmentation, TCP over IPv4, `hdrlen` 54, `mss` 4. -/
def of7Ctx : TxCtx :=
  { ipcss := 14#8, ipcso := 24#8, ipcse := 33#16, tucss := 34#8, tucso := 50#8, tucse := 0#16, paylen := 10#20
    hdrlen := 54#8, mss := 4#16, tcp := true, ip4 := true, ctse := true }

/-- The frames of OF7: total length, identification, IPv4 checksum, sequence number's low half, TCP flags, TCP checksum, and
the payload. -/
def tcpFrame (tot idLo ipHi ipLo seqLo flags tcHi tcLo : Nat) (payload : List Nat) : List Byte :=
  bytes ([0x02, 0, 0, 0, 0, 0x01, 0x52, 0x54, 0, 0x12, 0x34, 0x56, 0x08, 0,
    0x45, 0, 0, tot, 0x01, idLo, 0x40, 0, 0x40, 0x06, ipHi, ipLo, 0x0A, 0, 0, 0x01, 0x0A, 0, 0, 0x02,
    0x04, 0xD2, 0, 0x50, 0, 0, 0x10, seqLo, 0, 0, 0, 0, 0x50, flags, 0x20, 0, tcHi, tcLo, 0, 0] ++ payload)

/-- The packet of OF7. -/
def of7Packet : List Byte :=
  tcpFrame 0 0 0 0 0 0x18 0x14 0x09 [0xD0, 0xD1, 0xD2, 0xD3, 0xD4, 0xD5, 0xD6, 0xD7, 0xD8, 0xD9]

/-- OF7: the three segments. -/
theorem test_txd_data_segmentation :
    sentFrames
        (ran (.txdData ⟨0x1000#64, 64#20, true, false, true, true, false, false, false, 0#4, 0#4, 3#8, 0#16⟩)
          { txState (memOf [(0x1000, of7Packet)]) with txctx := of7Ctx }).out =
      [tcpFrame 0x2C 0 0x25 0xCA 0 0x10 0xC3 0x06 [0xD0, 0xD1, 0xD2, 0xD3],
        tcpFrame 0x2C 1 0x25 0xC9 4 0x10 0xBA 0xFA [0xD4, 0xD5, 0xD6, 0xD7],
        tcpFrame 0x2A 2 0x25 0xCA 8 0x18 0x8D 0xC4 [0xD8, 0xD9]] := by decide +kernel

/-- 44_transmit.md R254: DD and ERR although RS is 0, and the high nibble of the status byte is kept. -/
theorem test_txd_reserved :
    (ran (.txdReserved ⟨0#84, 2#4, true, false, false, false, false, false, false, 0#4, 0xA#4, 0#24⟩)
        (txState [])).out =
      [.raised (.offload .txReservedKind), .memWrite 0x1000C#64 [0xA3#8] true] := by decide +kernel

/-! ### Receive engine (2.9) -/

/-- RX1, with a frame of 60 bytes. -/
theorem test_rx_frame :
    (ran (.rxFrame (List.replicate 60 0xEE#8)) (rxState 7#32)).out =
        [.memRead 0x20000#64 16 true, .memWrite 0x30000#64 (List.replicate 60 0xEE#8) true,
          .memWrite 0x20008#64 (bytes [0x3C, 0, 0, 0, 7, 0, 0, 0]) true, .irq true] ∧
      (ran (.rxFrame (List.replicate 60 0xEE#8)) (rxState 7#32)).regs.rdh = 1#32 := by decide +kernel

/-- RX7 (S2). -/
theorem test_rx_frame_dropped :
    ran (.rxFrame (bytes [0x61, 0x62, 0x63])) (rxState 0#32) =
      { rxState 0#32 with rxDropCount := 1#32, out := [.raised .ringOverrun] } := by decide +kernel

/-- RX11's second descriptor: its buffer does not exist, its write-back carries RXE. -/
theorem test_rxd :
    (ran (.rxd ⟨0x90000000#64, 0#16, 0#16, 0#8, 0#8, 0#16⟩)
        { rxState 7#32 with
          holes := holes2G
          rx := some { frame := List.replicate 600 0xEE#8, bufSize := 256, pending := [0x20010#64, 0x20020#64]
                       index := 1, trunc := false, cs := ⟨4#8, 0#8, 0#16⟩, anyfail := false } }).out =
      [.memWrite 0x90000000#64 (List.replicate 256 0xEE#8) false, .raised (.dma .rxBuffer),
        .memWrite 0x20018#64 (bytes [0, 1, 0, 0, 1, 0x80, 0, 0]) true] := by decide +kernel

/-- RX11's last descriptor: RXE because of the earlier failure. -/
theorem test_rxd_last :
    (ran (.rxd ⟨0x32000#64, 0#16, 0#16, 0#8, 0#8, 0#16⟩)
        { rxState 7#32 with
          rx := some { frame := List.replicate 600 0xEE#8, bufSize := 256, pending := [0x20020#64]
                       index := 2, trunc := false, cs := ⟨4#8, 0#8, 0#16⟩, anyfail := true } }).out =
      [.memWrite 0x32000#64 (List.replicate 88 0xEE#8) true,
        .memWrite 0x20028#64 (bytes [0x58, 0, 0, 0, 7, 0x80, 0, 0]) true] := by decide +kernel

/-- RC1, RC5, RC6, RC8 to RC10: the reports on frame `G` and its variants. -/
theorem test_rx_checksum :
    rxChecksum 0x300#32 (udpFrame 0x54 0x95 0x8C 0xDC) false = ⟨0x60#8, 0#8, 0x7C9B#16⟩ ∧
      rxChecksum 0x300#32 (udpFrame 0x54 0x95 0x73 0xDC) false = ⟨0x60#8, 0x20#8, 0x639B#16⟩ ∧
      rxChecksum 0x300#32 (udpFrame 0x55 0x95 0x8C 0xDC) false = ⟨0x60#8, 0x40#8, 0x7D9B#16⟩ ∧
      rxChecksum 0x30E#32 (udpFrame 0x54 0x95 0x8C 0xDC) false = ⟨0x60#8, 0#8, 0xEBDD#16⟩ ∧
      rxChecksum 0x3FF#32 (udpFrame 0x54 0x95 0x8C 0xDC) false = ⟨0x60#8, 0#8, 0#16⟩ ∧
      rxChecksum 0x300#32 (udpFrame 0x54 0x95 0 0) false = ⟨0x40#8, 0#8, 0xEFBE#16⟩ := by decide +kernel

/-- RC7 and RC13. -/
theorem test_rx_checksum_other_frames :
    rxChecksum 0x300#32 (List.replicate 12 0#8 ++ [0x08#8, 0x06#8] ++ List.replicate 46 0#8) false =
        ⟨0x04#8, 0#8, 0x0806#16⟩ ∧
      rxChecksum 0x300#32 (tcpFrame 0x2C 0 0x25 0xCA 0 0x18 0xA1 0xDD [0x61, 0x62, 0x63, 0x64]) false =
        ⟨0x60#8, 0#8, 0x7C9C#16⟩ := by decide +kernel

/-! ### Reset (2.10) -/

/-- The start of RS1. -/
def rs1State : State :=
  { State.reset with
    regs := { RegFile.reset with icr := 0x80#32, ims := 0x80#32, itr := 3#32, tdh := 5#32, rdh := 2#32 }
    irqLine := true, itrHoldoff := 2#16, rxDropCount := 9#32, phy0 := 0x7DFF#16
    txctx := { TxCtx.reset with hdrlen := 54#8 } }

/-- RS1. -/
theorem test_software_reset :
    after (acc 0x82000000#32 0x04000000#64) rs1State =
      { State.reset with out := [.irq false, .response 0#64 false] } := by decide +kernel
/-- RS2. -/
theorem test_power_on : after .powerOn rs1State = { State.reset with out := [.irq false] } := by decide +kernel

/-! ### Witnesses: for each statement with hypotheses, a state and operands that meet them -/

/-- Well-formed operations of each shape, at the ends of their ranges. -/
theorem witness_DecodeEncodeRoundTrip :
    (Instr.wrTdbah 0xFF000000#32 0b1000#4).wf = true ∧ (Instr.wrIcr 0xFFFF0000#32 0b1100#4).wf = true ∧
      (Instr.wrCtrl 0xFFFFFFFF#32 0b1111#4).wf = true ∧ (Instr.rdUnmapped 0x1FFFC#24).wf = true ∧
      (Instr.wrUnmapped 0x4#24 0xFF#32 0b0001#4).wf = true ∧
      (Instr.accessFault .outOfRange ⟨.write, 0x1FFFD, 4, 5#64⟩).wf = true ∧
      (Instr.accessFault .badWidth ⟨.read, 0, 0, 0#64⟩).wf = true ∧
      (Instr.mdicReserved 0b10#2 31#5 ⟨true, 31#5, 0xFFFF#16⟩).wf = true ∧
      (Instr.txdReserved ⟨0#84, 2#4, true, false, false, true, false, false, false, 0#4, 0#4, 0#24⟩).wf = true ∧
      (Instr.txdReserved ⟨0#84, 15#4, true, false, false, true, false, false, false, 0#4, 0#4, 0#24⟩).wf = true := by
  decide +kernel

/-- A descriptor with the bytes 10 and 11 given. -/
def kindBytes (b10 b11 : Nat) : List Byte := bytes [0, 0, 0, 0, 0, 0, 0, 0, 0, 0, b10, b11, 0, 0, 0, 0]

theorem witness_TransmitDescriptorKinds :
    ((kindBytes 0xFF 0xDF).length = 16 ∧ (byteAt (kindBytes 0xFF 0xDF) 11).getLsbD 5 = false) ∧
      ((kindBytes 0x0F 0x20).length = 16 ∧ (byteAt (kindBytes 0x0F 0x20) 11).getLsbD 5 = true ∧
        (byteAt (kindBytes 0x0F 0x20) 10).extractLsb' 4 4 = 0#4) ∧
      ((byteAt (kindBytes 0x1F 0x20) 11).getLsbD 5 = true ∧
        (byteAt (kindBytes 0x1F 0x20) 10).extractLsb' 4 4 = 1#4) ∧
      ((byteAt (kindBytes 0x20 0xFF) 11).getLsbD 5 = true ∧
        2 ≤ ((byteAt (kindBytes 0x20 0xFF) 10).extractLsb' 4 4).toNat) ∧
      2 ≤ ((byteAt (kindBytes 0xF0 0xFF) 10).extractLsb' 4 4).toNat := by decide +kernel

theorem witness_DescriptorLayouts :
    (0xDF#8 : Byte).getLsbD 5 = false ∧
      ((0x20#8 : Byte).getLsbD 5 = true ∧ (0x0F#8 : Byte).extractLsb' 4 4 = 0#4) ∧
      ((0xFF#8 : Byte).getLsbD 5 = true ∧ (0x1F#8 : Byte).extractLsb' 4 4 = 1#4) ∧
      ((0x20#8 : Byte).getLsbD 5 = true ∧ 2 ≤ ((0x20#8 : Byte).extractLsb' 4 4).toNat) ∧
      2 ≤ ((0xFF#8 : Byte).extractLsb' 4 4).toNat := by decide

/-- Each width at the last place of the region. -/
theorem witness_AccessesAreNormalised :
    checkAccess 0x1FFFF 1 = none ∧ checkAccess 0x1FFFE 2 = none ∧ checkAccess 0x1FFFC 4 = none ∧
      checkAccess 0x1FFF8 8 = none ∧ checkAccess 0xC2 2 = none := by decide

/-- The clauses where they meet: width 3, one byte past the end, an odd offset inside, and the last legal offset. -/
theorem witness_AccessChecksInOrder :
    (¬(3 = 1 ∨ 3 = 2 ∨ 3 = 4 ∨ 3 = 8) ∧ ¬(0 = 1 ∨ 0 = 2 ∨ 0 = 4 ∨ 0 = 8)) ∧
      ((4 = 1 ∨ 4 = 2 ∨ 4 = 4 ∨ 4 = 8) ∧ 0x20000 < 0x1FFFD + 4) ∧
      (0x1FFFA + 4 ≤ 0x20000 ∧ 0x1FFFA % 4 ≠ 0) ∧ (0x1FFFC + 4 ≤ 0x20000 ∧ 0x1FFFC % 4 = 0) := by decide

theorem witness_FaultingAccessChangesNothing :
    (schedule (.access ⟨.write, 0x1FFFD, 4, 5#64⟩) State.reset).inbox =
        .op (.access ⟨.write, 0x1FFFD, 4, 5#64⟩) :: [] ∧
      checkAccess 0x1FFFD 4 = some .outOfRange := by decide

/-- The last dword of the region, and the hole between CTRL and STATUS. -/
theorem witness_UnmappedOffsetsReadZeroAndIgnoreWrites :
    (0x1FFFC % 4 = 0 ∧ 0x1FFFC + 4 ≤ 0x20000 ∧ ∀ r ∈ Reg.all, r.offset ≠ 0x1FFFC) ∧
      (4 % 4 = 0 ∧ 4 + 4 ≤ 0x20000 ∧ ∀ r ∈ Reg.all, r.offset ≠ 4) := by decide

theorem witness_ReadAccessAnswersAndChangesNothing :
    ((schedule (.access ⟨.read, 0xC0, 8, 0#64⟩) State.reset).inbox = .op (.access ⟨.read, 0xC0, 8, 0#64⟩) :: [] ∧
        (⟨.read, 0xC0, 8, 0#64⟩ : Access).dir = .read ∧ checkAccess 0xC0 8 = none) ∧
      ((schedule (.access ⟨.read, 0xC4, 8, 0#64⟩) State.reset).inbox = .op (.access ⟨.read, 0xC4, 8, 0#64⟩) :: [] ∧
        (⟨.read, 0xC4, 8, 0#64⟩ : Access).dir = .read ∧ checkAccess 0xC4 8 = some .misaligned) := by decide

theorem witness_StoreOnlyWrites : (31 < 32) ∧ (0 < 32) := by decide

theorem witness_RoundTripLaw :
    (Reg.itr ∈ [Reg.itr, .rctl, .tctl, .rdbal, .rdbah, .rdlen, .rdt, .tdbal, .tdbah, .tdlen, .tdt, .rxcsum]) ∧
      (Reg.tdt ∈ [Reg.itr, .rctl, .tctl, .rdbal, .rdbah, .rdlen, .rdt, .tdbal, .tdbah, .tdlen, .tdt, .rxcsum]) ∧
      (0xFBFFFFFF#32 : Word).getLsbD 26 = false := by decide

theorem witness_ControlWriteAndReset :
    (0xFBFFFFFF#32 : Word).getLsbD 26 = false ∧ (0x04000000#32 : Word).getLsbD 26 = true := by decide

/-- `irqState` of each clause: nothing pending with the line high and low, then pending and able to assert, held off, and
already high. -/
theorem witness_EvaluateAndRaiseCause :
    (let s := irqState 0x80#32 0x7F#32 true 0#32 0#16;
      s.regs.icr &&& s.regs.ims = 0#32 ∧ s.irqLine = true) ∧
    (let s := irqState 0x80#32 0x7F#32 false 0#32 0#16;
      s.regs.icr &&& s.regs.ims = 0#32 ∧ s.irqLine = false) ∧
    (let s := irqState 0x80#32 0x80#32 false 3#32 0#16;
      s.regs.icr &&& s.regs.ims ≠ 0#32 ∧ s.irqLine = false ∧ s.itrHoldoff = 0#16) ∧
    (let s := irqState 0x80#32 0x80#32 false 3#32 1#16;
      s.regs.icr &&& s.regs.ims ≠ 0#32 ∧ s.irqLine = false ∧ s.itrHoldoff ≠ 0#16) ∧
    (let s := irqState 0x80#32 0x80#32 true 3#32 1#16;
      s.regs.icr &&& s.regs.ims ≠ 0#32 ∧ s.irqLine = true) := by decide +kernel

theorem witness_TickCountsDownAndEvaluates :
    State.reset.itrHoldoff = 0#16 ∧ { State.reset with itrHoldoff := 1#16 }.itrHoldoff = 1#16 ∧
      1 < { State.reset with itrHoldoff := 2#16 }.itrHoldoff.toNat ∧
      1 < { State.reset with itrHoldoff := 0xFFFF#16 }.itrHoldoff.toNat := by decide

/-- TM4 to TM7: a deferred assertion with a holdoff of 3, and one with 1. -/
theorem witness_DeferredAssertionHappensAfterTheHoldoff :
    (let s := { irqState 0x80#32 0x80#32 false 3#32 3#16 with inbox := List.replicate 3 (.op .tick) ++ [] };
      irqWanted s = true ∧ s.irqLine = false ∧ s.itrHoldoff.toNat = 3 ∧ 0 < 3 ∧
        s.inbox = List.replicate 3 (.op .tick) ++ []) ∧
    (let s := { irqState 0x80#32 0x80#32 false 3#32 1#16 with inbox := List.replicate 1 (.op .tick) ++ [.op .tick] };
      irqWanted s = true ∧ s.irqLine = false ∧ s.itrHoldoff.toNat = 1 ∧ 0 < 1 ∧
        s.inbox = List.replicate 1 (.op .tick) ++ [.op .tick]) := by decide +kernel

/-- A state with the line high, and one with a deferred assertion. -/
theorem witness_StepKeepsTheLineInvariant :
    (IrqInv (irqState 0x80#32 0x80#32 true 3#32 0#16) ∧
        exec (.wrIcr 0x80#32 0b1111#4) (irqState 0x80#32 0x80#32 true 3#32 0#16) =
          .next { irqState 0#32 0x80#32 false 3#32 0#16 with out := [.irq false] }) ∧
      (IrqInv (schedule .tick (irqState 0x80#32 0x80#32 false 3#32 1#16)) ∧
        step (schedule .tick (irqState 0x80#32 0x80#32 false 3#32 1#16)) =
          .next { irqState 0x80#32 0x80#32 true 3#32 3#16 with out := [.irq true] }) :=
  ⟨⟨by decide +kernel, next_of (by decide +kernel)⟩, by decide +kernel, next_of (by decide +kernel)⟩

/-- A scheduled write of ICS. -/
def causeState : State := schedule (acc 0x820000C8#32 0x80#64) (irqState 0#32 0x80#32 false 0#32 0#16)

theorem witness_LineEqualsPendingWithoutCoalescing :
    (causeState.regs.itr.extractLsb' 0 16 = 0#16 ∧ causeState.itrHoldoff = 0#16 ∧
        causeState.irqLine = irqWanted causeState) ∧
      step causeState =
        .next { irqState 0x80#32 0x80#32 true 0#32 0#16 with out := [.irq true, .response 0#64 false] } ∧
      (irqState 0x80#32 0x80#32 true 0#32 0#16).regs.itr.extractLsb' 0 16 = 0#16 :=
  ⟨by decide +kernel, next_of (by decide +kernel), by decide +kernel⟩

theorem witness_StepKeepsReservedBits :
    (∀ r ∈ Reg.all, r.offset ≠ 0x5400) ∧
      RegInv (schedule (acc 0x82005000#32 0xFFFFFFFF#64) State.reset) ∧
      step (schedule (acc 0x82005000#32 0xFFFFFFFF#64) State.reset) =
        .next { withReg .rxcsum 0x3FF#32 with out := [.response 0#64 false] } ∧
      (RegInv State.reset ∧ Reg.status ∈ Reg.all) :=
  ⟨by decide +kernel, by decide +kernel, next_of (by decide +kernel), by decide +kernel⟩

/-- The setup of RX1 with a frame coming in. -/
def frameState : State := schedule (.rxFrame (List.replicate 60 0xEE#8)) (rxState 7#32)

theorem witness_StepEndsQuietWithCanonicalMemory :
    (Quiet frameState ∧ MemInv frameState) ∧ step frameState = .next (stepped frameState) ∧
      (stepped frameState).mem ≠ frameState.mem :=
  ⟨by decide +kernel, next_of (by decide +kernel), by decide +kernel⟩

/-- Each of the four registers changes somewhere: a drain, a received frame, a doorbell and a new receive tail. -/
theorem witness_HeadsAndTailsHaveOneOwner :
    exec (.wrTdt 3#32 0b1111#4) tx2State = .next (ran (.wrTdt 3#32 0b1111#4) tx2State) ∧
      exec (.rxFrame []) (rxState 7#32) = .next (ran (.rxFrame []) (rxState 7#32)) ∧
      exec (.wrRdt 7#32 0b1111#4) (rxState 0#32) = .next (rxState 7#32) ∧
      exec .resetPoweron rs1State = .next (ran .resetPoweron rs1State) ∧
      ((ran (.wrTdt 3#32 0b1111#4) tx2State).regs.tdh ≠ tx2State.regs.tdh ∧
        (ran (.wrTdt 3#32 0b1111#4) tx2State).regs.tdt ≠ tx2State.regs.tdt ∧
        (ran (.rxFrame []) (rxState 7#32)).regs.rdh ≠ (rxState 7#32).regs.rdh ∧
        (rxState 7#32).regs.rdt ≠ (rxState 0#32).regs.rdt ∧
        (ran .resetPoweron rs1State).regs.tdh ≠ rs1State.regs.tdh) :=
  ⟨next_of (by decide +kernel), next_of (by decide +kernel), next_of (by decide +kernel),
    next_of (by decide +kernel), by decide +kernel⟩

/-- Each clause's change happens somewhere. -/
theorem witness_OnlyTheirWritersChangeThem :
    exec (.wrTdt 3#32 0b1111#4) tx2State = .next (ran (.wrTdt 3#32 0b1111#4) tx2State) ∧
      exec (.rxFrame []) (rxState 7#32) = .next (ran (.rxFrame []) (rxState 7#32)) ∧
      exec (.rxFrame []) (rxState 0#32) = .next (ran (.rxFrame []) (rxState 0#32)) ∧
      exec (.txdContext of6Context) State.reset = .next (ran (.txdContext of6Context) State.reset) ∧
      exec (.mdicWrite ⟨false, 0#5, 0x7FFF#16⟩) State.reset =
        .next (ran (.mdicWrite ⟨false, 0#5, 0x7FFF#16⟩) State.reset) ∧
      ((ran (.wrTdt 3#32 0b1111#4) tx2State).mem ≠ tx2State.mem ∧
        sentFrames (ran (.wrTdt 3#32 0b1111#4) tx2State).out ≠ sentFrames tx2State.out ∧
        (ran (.wrTdt 3#32 0b1111#4) tx2State).irqLine ≠ tx2State.irqLine ∧
        (ran (.rxFrame []) (rxState 7#32)).mem ≠ (rxState 7#32).mem ∧
        (ran (.rxFrame []) (rxState 0#32)).rxDropCount ≠ (rxState 0#32).rxDropCount ∧
        (ran (.txdContext of6Context) State.reset).txctx ≠ State.reset.txctx ∧
        (ran (.mdicWrite ⟨false, 0#5, 0x7FFF#16⟩) State.reset).phy0 ≠ State.reset.phy0) :=
  ⟨next_of (by decide +kernel), next_of (by decide +kernel), next_of (by decide +kernel),
    next_of (by decide +kernel), next_of (by decide +kernel), by decide +kernel⟩

/-- Words 3 and 62 of the zeros; `ADDR` 63 is in the EEPROM, 64 and 255 are beyond it. -/
theorem witness_EepromContent :
    (3 ≤ 3 ∧ 3 ≤ 62) ∧ (3 ≤ 62 ∧ 62 ≤ 62) ∧ (63#8 : Byte).toNat < 64 ∧ ¬(64#8 : Byte).toNat < 64 ∧
      ¬(255#8 : Byte).toNat < 64 := by decide

theorem witness_MdicWriteRunsTheCommand :
    (0b0111#4 : BitVec 4).getLsbD 3 = false ∧ (0b1000#4 : BitVec 4).getLsbD 3 = true := by decide

theorem witness_PhyRegisters :
    4 ≤ (4#5 : BitVec 5).toNat ∧ 4 ≤ (31#5 : BitVec 5).toNat ∧ (0x8000#16 : BitVec 16).getLsbD 15 = true ∧
      (0x7FFF#16 : BitVec 16).getLsbD 15 = false ∧ (1#5 : BitVec 5) ≠ 0#5 := by decide

theorem witness_CommandRowsAreWhatTheHooksRun :
    ((0b00#2 : BitVec 2) = 0b00#2 ∨ (0b00#2 : BitVec 2) = 0b11#2 ∨ (1#5 : BitVec 5) ≠ 1#5) ∧
      ((0b10#2 : BitVec 2) = 0b00#2 ∨ (0b10#2 : BitVec 2) = 0b11#2 ∨ (2#5 : BitVec 5) ≠ 1#5) := by decide

/-- The TX setup with the transport mapping nothing. -/
def txUnmapped : State := { txState [] with holes := [⟨0, 2 ^ 64, false⟩] }

theorem witness_TransmitWriteBack :
    (false = false ∧ false = false ∧ false = false) ∧ (false = true ∨ true = true ∨ false = true) ∧
      mappable (txState []).holes (txDescAddr (txState []) + 12#64) 1 = true ∧
      mappable txUnmapped.holes (txDescAddr txUnmapped + 12#64) 1 = false := by decide +kernel

/-- A LEGACY descriptor of a buffer at 0x1000. -/
def legacyOf (len : BitVec 16) (eop ic : Bool) (cso css : Byte) : LegacyDesc :=
  ⟨0x1000#64, len, cso, eop, false, ic, true, false, false, false, 0#4, 0#4, css, 0#16⟩

/-- A DATA descriptor of a buffer at 0x1000. -/
def dataOf (len : BitVec 20) (eop : Bool) : DataDesc :=
  ⟨0x1000#64, len, eop, false, false, true, false, false, false, 0#4, 0#4, 0#8, 0#16⟩

/-- A packet under assembly with one byte gathered. -/
def midPacket : State := { txState [] with tx := { TxAsm.fresh with asm := [0x11#8], firstKind := some .legacy } }

/-- A poisoned packet under assembly. -/
def poisonedPacket : State := { txState [] with tx := { TxAsm.fresh with poison := true, firstKind := some .legacy } }

/-- The first hypothesis of `BufferDescriptorsGather`. -/
def gathers (s : State) (i : Instr) (p : TxAsm) (addr : Addr) (len : Nat) (rs : Bool) (rsv : BitVec 4) : Prop :=
  (∃ d : LegacyDesc, i = .txdLegacy d ∧ d.eop = false ∧ addr = d.addr ∧ len = d.length.toNat ∧ rs = d.rs ∧
      rsv = d.rsv ∧
      p = if s.tx.firstKind = none then
          { s.tx with firstKind := some .legacy, pktTse := false, pktPopts := 0#8 } else s.tx) ∨
    ∃ d : DataDesc, i = .txdData d ∧ d.eop = false ∧ addr = d.addr ∧ len = d.dtalen.toNat ∧ rs = d.rs ∧
      rsv = d.rsv ∧
      p = if s.tx.firstKind = none then
          { s.tx with firstKind := some .data, pktTse := d.tse, pktPopts := d.popts } else s.tx

/-- An empty buffer, and one byte that cannot be read. -/
theorem witness_BufferDescriptorsGather_empty_and_unmapped :
    (gathers midPacket (.txdLegacy (legacyOf 0#16 false false 0#8 0#8)) midPacket.tx 0x1000#64 0 true 0#4 ∧ 0 = 0) ∧
      (gathers txUnmapped (.txdLegacy (legacyOf 1#16 false false 0#8 0#8))
          { TxAsm.fresh with firstKind := some .legacy } 0x1000#64 1 true 0#4 ∧
        1 ≠ 0 ∧ mappable txUnmapped.holes 0x1000#64 1 = false) :=
  ⟨⟨.inl ⟨_, rfl, rfl, rfl, rfl, rfl, rfl, rfl⟩, rfl⟩, .inl ⟨_, rfl, rfl, rfl, rfl, rfl, rfl, rfl⟩, by decide +kernel⟩

/-- A poisoned packet; then a DATA descriptor that starts a packet with the frame length at the limit and one above it, and a
LEGACY descriptor inside a packet that reaches the limit. -/
theorem witness_BufferDescriptorsGather_readable :
    (gathers poisonedPacket (.txdLegacy (legacyOf 1#16 false false 0#8 0#8)) poisonedPacket.tx 0x1000#64 1 true 0#4 ∧
        mappable poisonedPacket.holes 0x1000#64 1 = true ∧ poisonedPacket.tx.poison = true) ∧
      (gathers (txState []) (.txdData (dataOf 65536#20 false)) { TxAsm.fresh with firstKind := some .data }
          0x1000#64 65536 true 0#4 ∧
        mappable (txState []).holes 0x1000#64 65536 = true ∧ (txState []).tx.poison = false ∧
        (txState []).tx.asm.length + 65536 ≤ 65536) ∧
      (gathers (txState []) (.txdData (dataOf 65537#20 false)) { TxAsm.fresh with firstKind := some .data }
          0x1000#64 65537 true 0#4 ∧
        mappable (txState []).holes 0x1000#64 65537 = true ∧ (txState []).tx.poison = false ∧
        65536 < (txState []).tx.asm.length + 65537) ∧
      (gathers midPacket (.txdLegacy (legacyOf 65535#16 false false 0#8 0#8)) midPacket.tx 0x1000#64 65535 true 0#4 ∧
        mappable midPacket.holes 0x1000#64 65535 = true ∧ midPacket.tx.poison = false ∧
        midPacket.tx.asm.length + 65535 ≤ 65536) :=
  ⟨⟨.inl ⟨_, rfl, rfl, rfl, rfl, rfl, rfl, rfl⟩, by decide +kernel⟩,
    ⟨.inr ⟨_, rfl, rfl, rfl, rfl, rfl, rfl, rfl⟩, by decide +kernel⟩,
    ⟨.inr ⟨_, rfl, rfl, rfl, rfl, rfl, rfl, rfl⟩, by decide +kernel⟩,
    ⟨.inl ⟨_, rfl, rfl, rfl, rfl, rfl, rfl, rfl⟩, by decide +kernel⟩⟩

/-- The first hypothesis of `EndOfPacketSendsTheFrame`. -/
def endsPacket (s : State) (i : Instr) (p : TxAsm) (ic : Option (Byte × Byte)) (addr : Addr) (len : Nat) (rs : Bool)
    (rsv : BitVec 4) : Prop :=
  (∃ d : LegacyDesc, i = .txdLegacy d ∧ d.eop = true ∧ addr = d.addr ∧ len = d.length.toNat ∧ rs = d.rs ∧
      rsv = d.rsv ∧ ic = (if d.ic then some (d.css, d.cso) else none) ∧
      p = if s.tx.firstKind = none then
          { s.tx with firstKind := some .legacy, pktTse := false, pktPopts := 0#8 } else s.tx) ∨
    ∃ d : DataDesc, i = .txdData d ∧ d.eop = true ∧ addr = d.addr ∧ len = d.dtalen.toNat ∧ rs = d.rs ∧
      rsv = d.rsv ∧ ic = none ∧
      p = if s.tx.firstKind = none then
          { s.tx with firstKind := some .data, pktTse := d.tse, pktPopts := d.popts } else s.tx

/-- A packet begun by a DATA descriptor with TSE and both checksums, with one byte gathered. -/
def dataPacket : State :=
  { txState [] with
    tx := { TxAsm.fresh with asm := [0x11#8], firstKind := some .data, pktTse := true, pktPopts := 3#8 } }

theorem endsPacket_legacy (s : State) (d : LegacyDesc) (h : d.eop = true) :
    endsPacket s (.txdLegacy d)
      (if s.tx.firstKind = none then
        { s.tx with firstKind := some .legacy, pktTse := false, pktPopts := 0#8 } else s.tx)
      (if d.ic then some (d.css, d.cso) else none) d.addr d.length.toNat d.rs d.rsv :=
  .inl ⟨d, rfl, h, rfl, rfl, rfl, rfl, rfl, rfl⟩

theorem endsPacket_data (s : State) (d : DataDesc) (h : d.eop = true) :
    endsPacket s (.txdData d)
      (if s.tx.firstKind = none then
        { s.tx with firstKind := some .data, pktTse := d.tse, pktPopts := d.popts } else s.tx)
      none d.addr d.dtalen.toNat d.rs d.rsv :=
  .inr ⟨d, rfl, h, rfl, rfl, rfl, rfl, rfl, rfl⟩

/-- The kinds of packet and of its last descriptor: LEGACY inside a LEGACY packet with insertion asked for, LEGACY ending a
packet begun by DATA, DATA continuing one, and DATA alone with segmentation. -/
theorem witness_EndOfPacketSendsTheFrame_kinds :
    endsPacket midPacket (.txdLegacy (legacyOf 8#16 true true 6#8 2#8)) midPacket.tx (some (2#8, 6#8)) 0x1000#64 8 true
        0#4 ∧
      endsPacket dataPacket (.txdLegacy (legacyOf 8#16 true true 6#8 2#8)) dataPacket.tx (some (2#8, 6#8)) 0x1000#64 8
        true 0#4 ∧
      endsPacket dataPacket (.txdData (dataOf 8#20 true)) dataPacket.tx none 0x1000#64 8 true 0#4 ∧
      endsPacket (txState []) (.txdData { dataOf 64#20 true with tse := true, popts := 3#8 })
        { TxAsm.fresh with firstKind := some .data, pktTse := true, pktPopts := 3#8 } none 0x1000#64 64 true 0#4 :=
  ⟨endsPacket_legacy _ _ rfl, endsPacket_legacy _ _ rfl, endsPacket_data _ _ rfl, endsPacket_data _ _ rfl⟩

/-- No bytes of its own: nothing gathered, a poisoned packet, and a packet with a byte gathered. -/
theorem witness_EndOfPacketSendsTheFrame_empty :
    (endsPacket (txState []) (.txdData (dataOf 0#20 true)) { TxAsm.fresh with firstKind := some .data } none 0x1000#64
        0 true 0#4 ∧ 0 = 0 ∧ (txState []).tx.asm = []) ∧
      (endsPacket poisonedPacket (.txdLegacy (legacyOf 0#16 true false 0#8 0#8)) poisonedPacket.tx none 0x1000#64 0
        true 0#4 ∧ 0 = 0 ∧ poisonedPacket.tx.poison = true) ∧
      (endsPacket dataPacket (.txdData (dataOf 0#20 true)) dataPacket.tx none 0x1000#64 0 true 0#4 ∧ 0 = 0 ∧
        dataPacket.tx.poison = false ∧ dataPacket.tx.asm ≠ []) :=
  ⟨⟨endsPacket_data _ _ rfl, by decide +kernel⟩, ⟨endsPacket_legacy _ _ rfl, by decide +kernel⟩,
    ⟨endsPacket_data _ _ rfl, by decide +kernel⟩⟩

/-- A buffer that cannot be read, a poisoned packet, and the frame length at the limit for both kinds of descriptor and one
byte above it. -/
theorem witness_EndOfPacketSendsTheFrame :
    (endsPacket txUnmapped (.txdLegacy (legacyOf 1#16 true false 0#8 0#8)) { TxAsm.fresh with firstKind := some .legacy }
        none 0x1000#64 1 true 0#4 ∧ 1 ≠ 0 ∧ mappable txUnmapped.holes 0x1000#64 1 = false) ∧
      (endsPacket poisonedPacket (.txdLegacy (legacyOf 1#16 true false 0#8 0#8)) poisonedPacket.tx none 0x1000#64 1 true
        0#4 ∧ 1 ≠ 0 ∧ mappable poisonedPacket.holes 0x1000#64 1 = true ∧ poisonedPacket.tx.poison = true) ∧
      (endsPacket midPacket (.txdLegacy (legacyOf 65535#16 true false 0#8 0#8)) midPacket.tx none 0x1000#64 65535 true
        0#4 ∧ 65535 ≠ 0 ∧ mappable midPacket.holes 0x1000#64 65535 = true ∧ midPacket.tx.poison = false ∧
        midPacket.tx.asm.length + 65535 ≤ 65536) ∧
      (endsPacket dataPacket (.txdData (dataOf 65535#20 true)) dataPacket.tx none 0x1000#64 65535 true 0#4 ∧
        65535 ≠ 0 ∧ mappable dataPacket.holes 0x1000#64 65535 = true ∧ dataPacket.tx.poison = false ∧
        dataPacket.tx.asm.length + 65535 ≤ 65536) ∧
      (endsPacket dataPacket (.txdData (dataOf 65536#20 true)) dataPacket.tx none 0x1000#64 65536 true 0#4 ∧
        65536 ≠ 0 ∧ mappable dataPacket.holes 0x1000#64 65536 = true ∧ dataPacket.tx.poison = false ∧
        65536 < dataPacket.tx.asm.length + 65536) :=
  ⟨⟨endsPacket_legacy _ _ rfl, by decide +kernel⟩, ⟨endsPacket_legacy _ _ rfl, by decide +kernel⟩,
    ⟨endsPacket_legacy _ _ rfl, by decide +kernel⟩, ⟨endsPacket_data _ _ rfl, by decide +kernel⟩,
    ⟨endsPacket_data _ _ rfl, by decide +kernel⟩⟩

/-- OF1 and OF2: the checksum position at the end of the frame, and one beyond it. -/
theorem witness_LegacyChecksumInsertion :
    let s := txState []
    let d := legacyOf 8#16 true true 6#8 2#8
    let e := legacyOf 8#16 true true 7#8 2#8
    (d.eop = true ∧ d.ic = true ∧ d.length ≠ 0#16 ∧ mappable s.holes d.addr d.length.toNat = true ∧
        s.tx.poison = false ∧ s.tx.firstKind ≠ some .data ∧ s.tx.asm.length + d.length.toNat ≤ 65536) ∧
      (let f := s.tx.asm ++ Memory.readRange s.mem d.addr.toNat d.length.toNat;
        d.css.toNat < f.length ∧ d.cso.toNat + 2 ≤ f.length ∧
          ¬(e.css.toNat < f.length ∧ e.cso.toNat + 2 ≤ f.length)) := by decide +kernel

theorem witness_TransmitDescriptorFrame :
    ∃ d, Instr.txdLegacy (legacyOf 4#16 true false 0#8 0#8) = .txdLegacy d := ⟨_, rfl⟩

theorem witness_UnfetchableDescriptorIsSkipped :
    mappable (txState []).holes (txDescAddr (txState [])) 16 = true ∧
      mappable txUnmapped.holes (txDescAddr txUnmapped) 16 = false := by decide +kernel

/-- Each disjunct: no descriptors, a head at the count, a tail at the count. -/
theorem witness_UnusableTransmitRingDoesNothing :
    txCount State.reset = 0 ∧
      (let s := { txState [] with regs := { (txState []).regs with tdh := 8#32 } };
        txCount s ≤ txHead s) ∧
      txCount (txState []) ≤ ((storedValue (txState []).regs.tdt 0xFFFF#32 8#32 0b1111#4).extractLsb' 0 16).toNat := by
  decide +kernel

/-- The last index of the ring, with the tail wrapped; and a ring of two. -/
theorem witness_DrainOfOneDescriptor :
    (let s := { txState [] with regs := { (txState []).regs with tdh := 7#32 } };
      let tail := ((storedValue s.regs.tdt 0x0000FFFF#32 0#32 0b1111#4).extractLsb' 0 16).toNat
      txHead s < txCount s ∧ tail < txCount s ∧ tail = (txHead s + 1) % txCount s ∧ 1 < txCount s) ∧
    (let s := { txState [] with regs := { (txState []).regs with tdlen := 32#32 } };
      let tail := ((storedValue s.regs.tdt 0x0000FFFF#32 1#32 0b1111#4).extractLsb' 0 16).toNat
      txHead s < txCount s ∧ tail < txCount s ∧ tail = (txHead s + 1) % txCount s ∧ 1 < txCount s) := by
  decide +kernel

/-- A ring whose last descriptor begins a packet and whose first ends it (TX5, without RS). -/
def tx5State : State :=
  { txState (memOf [(0x1000, bytes [1, 2, 3, 4]), (0x10000, legacyBytes 0x1000 2 1 0 0),
      (0x10030, legacyBytes 0x1002 2 0 0 0)]) with
    regs := { RegFile.reset with tdbal := 0x10000#32, tdlen := 64#32, ims := 0x81#32, tdh := 3#32, tdt := 3#32 } }

/-- The two descriptors of `tx5State`, in ring order. -/
def tx5Descs : List LegacyDesc :=
  [⟨0x1002#64, 2#16, 0#8, false, false, false, false, false, false, false, 0#4, 0#4, 0#8, 0#16⟩,
    ⟨0x1000#64, 2#16, 0#8, true, false, false, false, false, false, false, 0#4, 0#4, 0#8, 0#16⟩]

/-- What `DrainSendsThePackets` asks of the descriptor at distance `j` from the head. -/
def txDescReady (s : State) (j : Nat) (d : LegacyDesc) : Prop :=
  mappable s.holes (descAddr (tdba s) ((txHead s + j) % txCount s)) 16 = true ∧
    decodeTxd (descInt (Memory.readRange s.mem (descAddr (tdba s) ((txHead s + j) % txCount s)).toNat 16)) =
      .legacy d ∧
    d.rs = false ∧ d.ic = false ∧ (d.length ≠ 0#16 → mappable s.holes d.addr d.length.toNat = true)

/-- The state of `DrainHeadMeetsTail` after `j` rounds of the drain that a write of `wv` to TDT starts. -/
def drainRounds (s : State) (wv : Word) (j : Nat) : State :=
  (List.range j).foldl
    (fun u k =>
      let v := txStep u
      { v with regs := { v.regs with tdh := BitVec.ofNat 32 ((txHead s + k + 1) % txCount s) } })
    { s with regs := { s.regs with tdt := storedValue s.regs.tdt 0x0000FFFF#32 wv 0b1111#4 }, tx := TxAsm.fresh }

/-- What `DrainHeadMeetsTail` asks of a write of `wv` to TDT whose drain runs `n` descriptors. -/
abbrev drains (s : State) (wv : Word) (n : Nat) : Prop :=
  let tail := ((storedValue s.regs.tdt 0x0000FFFF#32 wv 0b1111#4).extractLsb' 0 16).toNat
  txHead s < txCount s ∧ tail < txCount s ∧ (tail + txCount s - txHead s) % txCount s = n

/-- No descriptor, the most a ring of 8 has, and two around the end of a ring; TXDW asked for or not; a byte that no drain of
`tx2State` writes. -/
theorem witness_DrainHeadMeetsTail :
    (drains tx2State 0#32 0 ∧ (drainRounds tx2State 0#32 0).tx.wantIrq = false) ∧
      (drains tx2State 7#32 7 ∧ (drainRounds tx2State 7#32 7).tx.wantIrq = true) ∧
      (drains tx5State 1#32 2 ∧ (drainRounds tx5State 1#32 2).tx.wantIrq = false) ∧
      ∀ j, j < 7 → 0x2000 ≠ (descAddr (tdba tx2State) ((txHead tx2State + j) % txCount tx2State) + 12#64).toNat := by
  decide +kernel

/-- Only the first of the two descriptors asks for an interrupt: TXDW is raised all the same (44_transmit.md R262). -/
theorem test_drain_raises_for_any_descriptor :
    (ran (.wrTdt 2#32 0b1111#4)
        (txState (memOf [(0x10000, legacyBytes 0x1000 0 9 0 0), (0x10010, legacyBytes 0x1000 0 1 0 0)]))).regs.icr =
      0x00000001#32 := by decide +kernel

theorem witness_DrainSendsThePackets :
    (let tail := ((storedValue tx5State.regs.tdt 0x0000FFFF#32 1#32 0b1111#4).extractLsb' 0 16).toNat;
      let nt := txCount tx5State
      txHead tx5State < nt ∧ tail < nt ∧ tx5Descs.length = (tail + nt - txHead tx5State) % nt) ∧
    (∀ j d, tx5Descs[j]? = some d → txDescReady tx5State j d) ∧
    ∀ j n, j + n < tx5Descs.length → (∀ d ∈ (tx5Descs.drop j).take n, d.eop = false) →
      (((tx5Descs.drop j).take (n + 1)).map fun d => d.length.toNat).sum ≤ 65536 := by
  refine ⟨by decide +kernel, fun j d h => ?_, fun j n h _ => ?_⟩
  · match j, h with
    | 0, h => cases h; unfold txDescReady; decide +kernel
    | 1, h => cases h; unfold txDescReady; decide +kernel
    | _ + 2, h => cases h
  · match j, n, h with
    | 0, 0, _ => decide
    | 0, 1, _ => decide
    | 1, 0, _ => decide
    | 0, n + 2, h => exact absurd h (by simp [tx5Descs])
    | 1, n + 1, h => exact absurd h (by simp [tx5Descs])
    | j + 2, n, h => exact absurd h (by simp [tx5Descs]; omega)

/-- TX5's frame: the packet wraps around the ring. -/
theorem test_drain_wraps : sentFrames (ran (.wrTdt 1#32 0b1111#4) tx5State).out = [bytes [3, 4, 1, 2]] := by
  decide +kernel

theorem witness_OnesComplementSum : 0xFFFF < 0x10000 ∧ ¬0xFFFF < 0xFFFF := by decide

/-- The clauses where they meet: the checksum ends the frame and one byte beyond it; `css` at the last byte and at the
end. -/
theorem witness_ChecksumInsertion :
    (7 < 8 ∧ 6 + 2 ≤ 8) ∧ ¬(7 < 8 ∧ 7 + 2 ≤ 8) ∧ ¬(8 < 8 ∧ 6 + 2 ≤ 8) ∧
      (let f : List Byte := bytes [0, 1, 2, 3, 4, 5, 0, 0];
        let stop := if 3 ≠ 0 ∧ 3 < f.length then 3 + 1 else f.length
        3 < stop ∧ 6 + 2 ≤ f.length) := by decide

theorem witness_InsertedChecksumVerifies :
    let f : List Byte := bytes [0, 1, 2, 3, 4, 5, 0, 0]
    let stop := if 0 ≠ 0 ∧ 0 < f.length then 0 + 1 else f.length
    2 ≤ 6 ∧ 6 + 2 ≤ stop ∧ (6 - 2) % 2 = 0 ∧ byteAt f 6 = 0#8 ∧ byteAt f (6 + 1) = 0#8 := by decide

/-- The conditions of 45_offload.md R285, as `SegmentationKeepsThePayload` writes them. -/
abbrev segmentable (c : TxCtx) (popts : Byte) (f : List Byte) : Prop :=
  1 ≤ c.mss.toNat ∧ (1 ≤ c.hdrlen.toNat ∧ c.hdrlen.toNat ≤ f.length) ∧ c.ipcss.toNat + 6 ≤ c.hdrlen.toNat ∧
    (c.tcp = true → c.tucss.toNat + 14 ≤ c.hdrlen.toNat) ∧ (c.tcp = false → c.tucss.toNat + 6 ≤ c.hdrlen.toNat) ∧
    (popts.getLsbD 1 = true → c.tucso.toNat + 2 ≤ c.hdrlen.toNat) ∧
    (popts.getLsbD 0 = true → c.ipcso.toNat + 2 ≤ c.hdrlen.toNat)

/-- OF7 is well formed; with an empty header (OF8) or an `mss` of 0 it is not. -/
theorem witness_SegmentationKeepsThePayload :
    segmentable of7Ctx 3#8 of7Packet ∧ segmentable of7Ctx 3#8 (of7Packet.take 54) ∧
      ¬segmentable of7Ctx 3#8 (of7Packet.take 53) ∧ ¬segmentable { of7Ctx with mss := 0#16 } 3#8 of7Packet ∧
      ¬segmentable TxCtx.reset 3#8 of7Packet ∧ ((segment of7Ctx 3#8 of7Packet).1[2]?).isSome = true :=
  ⟨by decide +kernel, by decide +kernel, by decide +kernel, by decide +kernel, by decide +kernel, by decide +kernel⟩

/-- A UDP packet over IPv6: `ipcss` 14, `tucss` 54, `tucso` 60, `hdrlen` 62. -/
def udp6Ctx : TxCtx :=
  { TxCtx.reset with ipcss := 14#8, tucss := 54#8, tucso := 60#8, hdrlen := 62#8, mss := 100#16, ctse := true }

/-- What `SegmentHeaderFields` asks of a context. -/
abbrev headerFieldsApart (c : TxCtx) (popts : Byte) (f : List Byte) : Prop :=
  segmentValid c popts f.length = true ∧ c.ipcss.toNat + 6 ≤ c.tucss.toNat ∧
    (popts.getLsbD 1 = true → c.tucss.toNat + (if c.tcp then 14 else 6) ≤ c.tucso.toNat)

/-- OF7 with and without checksums; UDP over IPv6 with its checksum right behind the length, and one byte of frame behind
the headers or none. -/
theorem witness_SegmentHeaderFields :
    headerFieldsApart of7Ctx 3#8 of7Packet ∧ headerFieldsApart of7Ctx 0#8 of7Packet ∧
      headerFieldsApart udp6Ctx 2#8 (List.replicate 63 0#8) ∧
      headerFieldsApart udp6Ctx 2#8 (List.replicate 62 0#8) ∧
      (of7Ctx.tcp = true ∧ of7Ctx.ip4 = true ∧ udp6Ctx.tcp = false ∧ udp6Ctx.ip4 = false) := by decide +kernel

/-- OF7's first and last segments as 45_offload.md R286 gives them before any checksum. -/
theorem test_segment_without_checksums :
    (segment of7Ctx 0#8 of7Packet).1[0]? =
        some (tcpFrame 0x2C 0 0 0 0 0x10 0x14 0x09 [0xD0, 0xD1, 0xD2, 0xD3]) ∧
      (segment of7Ctx 0#8 of7Packet).1[2]? = some (tcpFrame 0x2A 2 0 0 8 0x18 0x14 0x09 [0xD8, 0xD9]) := by
  decide +kernel

/-- Each disjunct: no ring, a head at the count, a tail at the count (RX9 and beyond), nothing free (RX7). -/
theorem witness_FrameWithoutAFreeDescriptorIsDropped :
    rxCount State.reset = 0 ∧
      (let s := { rxState 0#32 with regs := { (rxState 0#32).regs with rdh := 8#32 } };
        rxCount s ≤ rxHead s) ∧
      rxCount (rxState 8#32) ≤ rxTail (rxState 8#32) ∧ rxHead (rxState 0#32) = rxTail (rxState 0#32) := by
  decide +kernel

/-- A frame that fills its buffer of 2048 bytes, and an empty one; one descriptor is free. -/
theorem witness_FrameFillsOneBuffer :
    let s := rxState 1#32
    let a := rxDescAddr s
    let buf := (decodeRxd (descInt (Memory.readRange s.mem a.toNat 16))).addr
    rxHead s < rxCount s ∧ rxTail s < rxCount s ∧ rxHead s ≠ rxTail s ∧
      (List.replicate 2048 0xEE#8).length ≤ rxBufSize s.regs.rctl ∧ s.regs.rxcsum.extractLsb' 8 2 = 0#2 ∧
      mappable s.holes a 16 = true ∧ mappable s.holes (a + 8#64) 8 = true ∧
      List.replicate 2048 0xEE#8 ≠ [] ∧ mappable s.holes buf (List.replicate 2048 0xEE#8).length = true ∧
      ([] : List Byte).length ≤ rxBufSize s.regs.rctl := by decide +kernel

/-- Buffers of 256 bytes and a frame of one byte more, with one descriptor free. -/
theorem witness_FrameIsTruncatedWhenDescriptorsRunOut :
    let s := { rxState 1#32 with regs := { (rxState 1#32).regs with rctl := 0x00030000#32 } }
    let a := rxDescAddr s
    let buf := (decodeRxd (descInt (Memory.readRange s.mem a.toNat 16))).addr
    let B := rxBufSize s.regs.rctl
    rxHead s < rxCount s ∧ rxTail s < rxCount s ∧ rxTail s = (rxHead s + 1) % rxCount s ∧ 1 < rxCount s ∧
      B < (List.replicate 257 0xEE#8).length ∧ mappable s.holes a 16 = true ∧
      mappable s.holes (a + 8#64) 8 = true ∧ mappable s.holes buf B = true := by decide +kernel

/-- Buffers of 256 bytes and a frame of 300, with exactly the two descriptors it needs, around the end of the ring. -/
def chainState : State :=
  { rxState 1#32 with regs := { (rxState 1#32).regs with rctl := 0x00030000#32, rdh := 7#32 } }

theorem witness_FrameChainsOverDescriptors :
    let s := chainState
    let frame : List Byte := List.replicate 300 0xEE#8
    let B := rxBufSize s.regs.rctl
    let nr := rxCount s
    let n := (frame.length + B - 1) / B
    let desc (j : Nat) : Addr := descAddr (rdba s) ((rxHead s + j) % nr)
    let buf (j : Nat) : Addr := (decodeRxd (descInt (Memory.readRange s.mem (desc j).toNat 16))).addr
    let chunk (j : Nat) : List Byte := (frame.drop (j * B)).take B
    rxHead s < nr ∧ rxTail s < nr ∧ frame ≠ [] ∧ n = 2 ∧ n ≤ (rxTail s + nr - rxHead s) % nr ∧
      s.regs.rxcsum.extractLsb' 8 2 = 0#2 ∧
      (∀ j, j < n → mappable s.holes (desc j) 16 = true ∧ mappable s.holes (desc j + 8#64) 8 = true ∧
        mappable s.holes (buf j) (chunk j).length = true) := by decide +kernel

/-- A fill with a descriptor to come, with none to come, and no fill. -/
theorem witness_ReceiveDescriptorRow :
    let job (p : List Addr) : RxFill :=
      { frame := List.replicate 300 0xEE#8, bufSize := 256, pending := p, index := 1, trunc := false
        cs := ⟨4#8, 0#8, 0#16⟩, anyfail := false }
    State.reset.rx = none ∧
      ({ State.reset with rx := some (job []) }.rx = some (job []) ∧ (job []).pending = []) ∧
      ({ State.reset with rx := some (job [0x20010#64]) }.rx = some (job [0x20010#64]) ∧
        (job [0x20010#64]).pending = 0x20010#64 :: []) := by decide +kernel

/-- `chainState` with the transport mapping nothing. -/
def rxUnmapped : State := { chainState with holes := [⟨0, 2 ^ 64, false⟩] }

/-- `chainState` with its first descriptor in a hole. -/
def rxSkip : State := { chainState with holes := [⟨0x20070, 16, false⟩] }

/-- The scan of a frame's descriptors: one that can be fetched, one that cannot (46_receive.md R306), and none at all. -/
theorem witness_ReceiveDescriptorRow_scan :
    (rxHead chainState < rxCount chainState ∧ rxTail chainState < rxCount chainState ∧
        rxHead chainState ≠ rxTail chainState) ∧
      mappable chainState.holes (rxDescAddr chainState) 16 = true ∧
      mappable rxSkip.holes (rxDescAddr rxSkip) 16 = false ∧
      (rxGather (rxCount chainState) 2 2 chainState).1 ≠ [] ∧ (rxGather (rxCount rxSkip) 2 2 rxSkip).1.length = 1 ∧
      (rxGather (rxCount rxUnmapped) 2 2 rxUnmapped).1 = [] := by decide +kernel

/-- RX11's rule with a skipped descriptor: the frame is truncated to the one descriptor left (46_receive.md R306, R309). -/
theorem test_rx_frame_skips_a_descriptor :
    (ran (.rxFrame (List.replicate 300 0xEE#8)) rxSkip).out =
        [.memRead 0x20070#64 16 false, .raised (.dma .rxDescFetch), .memRead 0x20000#64 16 true,
          .memWrite 0x30000#64 (List.replicate 256 0xEE#8) true,
          .memWrite 0x20008#64 (bytes [0, 1, 0, 0, 7, 0x80, 0, 0]) true, .irq true] ∧
      (ran (.rxFrame (List.replicate 300 0xEE#8)) rxSkip).regs.rdh = 1#32 := by decide +kernel

/-- A head below the tail and one that wraps; the byte before the first descriptor's write-back (its buffer address) and the
one after it are outside every range written, for any number of descriptors passed. -/
theorem witness_ReceiveHeadNeverPassesTheTail :
    (rxHead (rxState 7#32) < rxCount (rxState 7#32) ∧ rxTail (rxState 7#32) < rxCount (rxState 7#32)) ∧
      (rxHead chainState < rxCount chainState ∧ rxTail chainState < rxCount chainState) ∧
      ∀ x, x = 0x20077 ∨ x = 0x20080 → ∀ k, k ≤ 2 → ∀ j, j < k →
        let desc : Addr := descAddr (rdba chainState) ((rxHead chainState + j) % rxCount chainState)
        let buf := (decodeRxd (descInt (Memory.readRange chainState.mem desc.toNat 16))).addr
        mappable chainState.holes desc 16 = true →
          (x < (desc + 8#64).toNat ∨ (desc + 8#64).toNat + 8 ≤ x) ∧ (x < buf.toNat ∨ buf.toNat + 256 ≤ x) := by
  refine ⟨by decide +kernel, by decide +kernel, ?_⟩
  rintro x (rfl | rfl)
  · decide +kernel
  · decide +kernel

/-- RC1's frame is reported on; without enables, or truncated, nothing is; RC7's frame is not IPv4. -/
theorem witness_ReceiveChecksumReport :
    (0x0FF#32 : Word).extractLsb' 8 2 = 0#2 ∧
      ((0x100#32 : Word).extractLsb' 8 2 ≠ 0#2 ∧ isIPv4 (udpFrame 0x54 0x95 0x8C 0xDC) = true) ∧
      ((0x200#32 : Word).extractLsb' 8 2 ≠ 0#2 ∧ isIPv4 (List.replicate 60 0#8) = false) ∧
      (l4Checkable (udpFrame 0x54 0x95 0x8C 0xDC) = true ∧ l4Checkable (udpFrame 0x54 0x95 0 0) = false ∧
        l4Good (udpFrame 0x54 0x95 0x8C 0xDC) = true ∧ l4Good (udpFrame 0x54 0x95 0x73 0xDC) = false) := by
  decide +kernel

theorem witness_EnablesDoNotGate :
    exec (.rxFrame (List.replicate 60 0xEE#8)) (rxState 7#32) =
        .next (ran (.rxFrame (List.replicate 60 0xEE#8)) (rxState 7#32)) ∧
      exec (.wrTdt 3#32 0b1111#4) tx2State = .next (ran (.wrTdt 3#32 0b1111#4) tx2State) :=
  ⟨next_of (by decide +kernel), next_of (by decide +kernel)⟩

/-- DP19's access. -/
def wide : Operation := acc 0x83002800#32 0xAAAAAAAA55555555#64

/-- One operation, an access of two, and the finish of an access and of an event. -/
theorem witness_StepRunsTheDecodedOperation :
    ((schedule (acc 0x02000008#32 0#64) State.reset).inbox = .op (acc 0x02000008#32 0#64) :: [] ∧
        (schedule wide State.reset).inbox = .op wide :: []) ∧
      decode (acc 0x02000008#32 0#64).wire = .ok [.rdStatus] ∧
      exec .rdStatus State.reset = .next (ran .rdStatus State.reset) ∧
      decode wide.wire = .ok [.wrRdbal 0x55555555#32 0b1111#4, .wrRdbah 0xAAAAAAAA#32 0b1111#4] ∧
      exec (.wrRdbal 0x55555555#32 0b1111#4) State.reset = .next (withReg .rdbal 0x55555550#32) ∧
      exec (.wrRdbah 0xAAAAAAAA#32 0b1111#4) (withReg .rdbal 0x55555550#32) =
        .next ((withReg .rdbal 0x55555550#32).setReg .rdbah 0xAAAAAAAA#32) ∧
      decode (Operation.wire .tick) = .ok [.timerTick] :=
  ⟨by decide +kernel, by decide +kernel, next_of (by decide +kernel), by decide +kernel,
    next_of (by decide +kernel), next_of (by decide +kernel), by decide +kernel⟩

/-- `Operation.tick` is no access. -/
theorem witness_StepRunsTheDecodedOperation_event : ¬∃ a, Operation.tick = .access a := by
  rintro ⟨a, h⟩
  cases h

/-- The last range of the address space, one byte more, and a range in a hole. -/
theorem witness_DmaIsAllOrNothing :
    2 ^ 64 < (0xFFFFFFFFFFFFFFFF#64 : Addr).toNat + 2 ∧
      mappable State.reset.holes 0xFFFFFFFFFFFFFFFF#64 1 = true ∧ MemInv State.reset ∧
      mappable tx2State.holes 0x7FFFFFFF#64 1 = true ∧ mappable tx2State.holes 0x7FFFFFFF#64 2 = false ∧
      MemInv tx2State ∧ 0 < 1 := by decide +kernel

end Sys2Proof.Tests
end

section
/-! SUPPORT. What an agent's operation decodes to and what a step can do, the bits a register can hold, and the proofs of the
statements about reset and about what every step keeps (10_state.md). -/

namespace Sys2Proof.Machine

/-! ### A dword operation on a register -/

/-- A read of a register yields its masked value and does nothing else (40_dispatcher.md R133). -/
theorem exec_rdInstr (r : Reg) (s : State) : exec (rdInstr r) s = .next (yieldRead (dwRead s r) s) := by
  cases r <;> rfl

/-- The hook of a register's write, run after the masked store (40_dispatcher.md R134); `exec_wrInstr` ties it to `exec`. -/
def writeHook (wv : Word) (be : BitVec 4) : Reg → State → State
  | .ctrl, s => if wv.getLsbD 26 then deviceReset s else s
  | .eerd, s =>
    if be.getLsbD 0 then
      if wv.getLsbD 0 then eerdStart (eerdAddr s) (wv.extractLsb' 16 16) s else setEerdDone false s
    else s
  | .mdic, s => if be.getLsbD 3 then runMdi (decodeMdi (s.reg .mdic)) s else s
  | .icr, s => evaluate (s.setReg .icr (s.reg .icr &&& ~~~wv))
  | .ics, s => raiseCause wv s
  | .ims, s => evaluate (s.setReg .ims (s.reg .ims ||| wv))
  | .imc, s => evaluate (s.setReg .ims (s.reg .ims &&& ~~~wv))
  | .tdt, s => txDrain s
  | .status, s | .itr, s | .rctl, s | .tctl, s | .rdbal, s | .rdbah, s | .rdlen, s | .rdh, s | .rdt, s | .tdbal, s
  | .tdbah, s | .tdlen, s | .tdh, s | .rxcsum, s => s

/-- A write of a register is the masked store and then the register's hook (40_dispatcher.md R134). -/
theorem exec_wrInstr (wv : Word) (be : BitVec 4) (r : Reg) (s : State) :
    exec (wrInstr wv be r) s = .next (writeHook wv be r (storeMasked r wv be s)) := by
  cases r <;> rfl

/-! ### What an access runs -/

/-- What one operation of an access can do to the state. -/
inductive AccessOutcome (s : State) : State → Prop where
  | fault (c : AccessCause) :
    AccessOutcome s (raiseFault (.access c) { s with bus := { reads := [], fault := true } })
  | read (v : Word) : AccessOutcome s (yieldRead v s)
  | ignored : AccessOutcome s s
  | write (r : Reg) (wv : Word) (be : BitVec 4) : AccessOutcome s (writeHook wv be r (storeMasked r wv be s))

theorem exec_dwordInstr_outcome (dir : Dir) (o : DwordOp) (s t : State) (h : exec (dwordInstr dir o) s = .next t) :
    AccessOutcome s t := by
  unfold dwordInstr at h
  split at h
  case h_1 r _ => rw [exec_rdInstr] at h; cases h; exact .read _
  case h_2 r _ => rw [exec_wrInstr] at h; cases h; exact .write r o.wv o.be
  case h_3 => cases h; exact .read 0#32
  case h_4 => cases h; exact .ignored

theorem exec_decodeAccess_outcome (acc : Access) (i : Instr) (hi : i ∈ decodeAccess acc) (s t : State)
    (h : exec i s = .next t) : AccessOutcome s t := by
  unfold decodeAccess at hi
  split at hi
  case h_1 c _ =>
    obtain rfl := List.mem_singleton.mp hi
    cases h; exact .fault c
  case h_2 =>
    obtain ⟨o, _, rfl⟩ := List.mem_map.mp hi
    exact exec_dwordInstr_outcome acc.dir o s t h

/-- What every operation of a list keeps, the list keeps. -/
theorem runInstrs_keeps {P : State → Prop} (is : List Instr)
    (hP : ∀ i ∈ is, ∀ s t, exec i s = .next t → P s → P t) (s t : State) (h : runInstrs is s = .next t) (hs : P s) :
    P t := by
  induction is generalizing s with
  | nil => cases h; exact hs
  | cons i is ih =>
    unfold runInstrs at h
    cases he : exec i s with
    | next u =>
      rw [he] at h
      exact ih (fun j hj => hP j (List.mem_cons_of_mem i hj)) u h (hP i List.mem_cons_self s u he hs)
    | fault r => rw [he] at h; cases h
    | refused r => rw [he] at h; cases h

/-- What every outcome of an access's operations keeps, the whole access keeps. -/
theorem runAccess_keeps {P : State → Prop} (hP : ∀ s t, AccessOutcome s t → P s → P t) (acc : Access) (s t : State)
    (h : runInstrs (decodeAccess acc) s = .next t) (hs : P s) : P t :=
  runInstrs_keeps (decodeAccess acc) (fun i hi u v he => hP u v (exec_decodeAccess_outcome acc i hi u v he)) s t h hs

/-! ### What a step runs -/

/-- What a step can do: nothing, a move of the environment, or one operation of an agent from an idle response. -/
inductive StepOutcome (s : State) : State → Prop where
  | nothing (h : s.inbox = []) : StepOutcome s s
  | guestStore (a : Addr) (v : Byte) (rest : List Input) (h : s.inbox = .guestStore a v :: rest) :
    StepOutcome s { s with inbox := rest, mem := Memory.write s.mem a.toNat v }
  | remap (hs : List Hole) (rest : List Input) (h : s.inbox = .remap hs :: rest) :
    StepOutcome s { s with inbox := rest, holes := hs }
  | access (acc : Access) (rest : List Input) (u : State) (h : s.inbox = .op (.access acc) :: rest)
    (hu : runInstrs (decodeAccess acc) { s with inbox := rest, bus := Bus.idle } = .next u) :
    StepOutcome s (finishOperation (.access acc) u)
  | frame (f : List Byte) (rest : List Input) (h : s.inbox = .op (.rxFrame f) :: rest) :
    StepOutcome s (receiveFrame f { s with inbox := rest, bus := Bus.idle })
  | tick (rest : List Input) (h : s.inbox = .op .tick :: rest) :
    StepOutcome s (tick { s with inbox := rest, bus := Bus.idle })
  | powerOn (rest : List Input) (h : s.inbox = .op .powerOn :: rest) :
    StepOutcome s (deviceReset { s with inbox := rest, bus := Bus.idle })

theorem step_outcome (s t : State) (h : step s = .next t) : StepOutcome s t := by
  unfold step at h
  split at h
  case h_1 hin => cases h; exact .nothing hin
  case h_2 i rest hin =>
    cases i with
    | guestStore a v => cases h; exact .guestStore a v rest hin
    | remap hs => cases h; exact .remap hs rest hin
    | op o =>
      cases o with
      | access acc =>
        simp only [runInput, runOperation] at h
        split at h
        · next u hu => cases h; exact .access acc rest u hin hu
        · cases h
        · cases h
      | rxFrame f => cases h; exact .frame f rest hin
      | tick => cases h; exact .tick rest hin
      | powerOn => cases h; exact .powerOn rest hin

/-! ### The loops of the engines -/

/-- What one round of the drain keeps, the loop keeps. -/
theorem txLoop_keeps {P : State → Prop} (nt : Nat) (hP : ∀ s, P s → P (advanceTdh nt (txStep s))) (fuel : Nat)
    (s : State) (hs : P s) : P (txLoop nt fuel s) := by
  induction fuel generalizing s with
  | zero => exact hs
  | succ fuel ih =>
    unfold txLoop
    split
    · exact hs
    · exact ih _ (hP s hs)

/-- What one scan for a free descriptor keeps, the gathering keeps. -/
theorem rxGather_keeps {P : State → Prop} (nr : Nat) (hP : ∀ s, P s → P (rxFetch nr s).2) (free need : Nat) (s : State)
    (hs : P s) : P (rxGather nr free need s).2 := by
  induction free generalizing need s with
  | zero => exact hs
  | succ free ih =>
    cases need with
    | zero => exact hs
    | succ need =>
      have hf := hP s hs
      unfold rxGather
      cases e : rxFetch nr s with
      | mk got u =>
        rw [e] at hf
        cases got with
        | none => exact ih _ _ hf
        | some d => exact ih _ _ hf

/-- What filling one descriptor keeps, and what does not look at the fill in progress, the whole fill keeps. -/
theorem rxFill_keeps {P : State → Prop} (hP : ∀ b s, P s → P (rxFillOne b s)) (hrx : ∀ s x, P s → P { s with rx := x })
    (frame : List Byte) (got : List (Addr × RxDesc)) (need B : Nat) (s : State) (hs : P s) :
    P (rxFill frame got need B s) := by
  refine hrx _ none ?_
  refine List.foldlRecOn got _ (hrx s _ hs) ?_
  exact fun t ht e _ => hP e.2.addr t ht

theorem ringRefused_eq_false (n head tail : Nat) : ringRefused n head tail = false ↔ n ≠ 0 ∧ head < n ∧ tail < n := by
  simp [ringRefused, and_assoc]

/-- A drain does nothing on an unusable ring, and otherwise runs the loop and raises TXDW if a descriptor asked for it. -/
theorem txDrain_cases (s : State) :
    (ringRefused (txCount s) (txHead s) (txTail s) = true ∧ txDrain s = s) ∨
      (ringRefused (txCount s) (txHead s) (txTail s) = false ∧
        ∃ u, u = txLoop (txCount s) (txCount s) { s with tx := TxAsm.fresh } ∧
          txDrain s =
            if u.tx.wantIrq then raiseCause causeTxdw { u with tx := TxAsm.fresh } else { u with tx := TxAsm.fresh }) := by
  unfold txDrain
  cases ringRefused (txCount s) (txHead s) (txTail s) <;> simp

/-- A frame is dropped, before or after the descriptors were scanned, or fills the descriptors in hand and raises RXT0. -/
theorem receiveFrame_cases (frame : List Byte) (s : State) :
    ((ringRefused (rxCount s) (rxHead s) (rxTail s) = true ∨ rxFree s = 0) ∧ receiveFrame frame s = rxDrop s) ∨
      (ringRefused (rxCount s) (rxHead s) (rxTail s) = false ∧ rxFree s ≠ 0 ∧
        ∃ need g, need = ceilDiv1 frame.length (rxBufSize (s.reg .rctl)) ∧
          g = rxGather (rxCount s) (rxFree s) need s ∧
          (g.1 = [] ∧ receiveFrame frame s = rxDrop g.2 ∨
            g.1 ≠ [] ∧
              receiveFrame frame s =
                raiseCause causeRxt0 (rxFill frame g.1 need (rxBufSize (s.reg .rctl)) g.2))) := by
  unfold receiveFrame
  cases hr : ringRefused (rxCount s) (rxHead s) (rxTail s)
  · by_cases hf : rxFree s = 0
    · simp [hf]
    · refine .inr ⟨rfl, hf, _, _, rfl, rfl, ?_⟩
      simp only [hf, if_false, Bool.false_eq_true]
      split <;> simp_all
  · simp

/-! ### The bits a register can hold -/

/-- Every bit of `v` that is 1 is 1 in `m`. -/
def BitsIn (m v : Word) : Prop := v &&& ~~~m = 0#32

theorem bitsIn_iff (m v : Word) : BitsIn m v ↔ ∀ i, v.getLsbD i = true → m.getLsbD i = true := by
  constructor
  · intro h i hi
    have hb := congrArg (BitVec.getLsbD · i) h
    simp only [BitVec.getLsbD_and, BitVec.getLsbD_not, BitVec.getLsbD_zero, hi, Bool.true_and] at hb
    simpa [BitVec.lt_of_getLsbD hi] using hb
  · intro h
    refine BitVec.eq_of_getLsbD_eq fun i hi => ?_
    have := h i
    cases hv : v.getLsbD i <;> simp_all

theorem BitsIn.or {m v w : Word} (hv : BitsIn m v) (hw : BitsIn m w) : BitsIn m (v ||| w) := by
  rw [bitsIn_iff] at *
  intro i hi
  rw [BitVec.getLsbD_or, Bool.or_eq_true] at hi
  exact hi.elim (hv i) (hw i)

theorem BitsIn.and {m v : Word} (hv : BitsIn m v) (w : Word) : BitsIn m (v &&& w) := by
  rw [bitsIn_iff] at *
  intro i hi
  rw [BitVec.getLsbD_and, Bool.and_eq_true] at hi
  exact hv i hi.1

theorem bitsIn_and_self (m v : Word) : BitsIn m (v &&& m) := by
  rw [bitsIn_iff]
  intro i hi
  rw [BitVec.getLsbD_and, Bool.and_eq_true] at hi
  exact hi.2

theorem BitsIn.mono {m n v : Word} (hv : BitsIn m v) (hmn : BitsIn n m) : BitsIn n v := by
  rw [bitsIn_iff] at *
  exact fun i hi => hmn i (hv i hi)

/-- Setting or clearing a bit of the mask stays inside the mask. -/
theorem BitsIn.setBit {m w : Word} (hw : BitsIn m w) (i : Nat) (b : Bool) (hi : BitsIn m (BitVec.twoPow 32 i)) :
    BitsIn m (setBit w i b) := by
  cases b
  · exact hw.and _
  · exact hw.or hi

theorem BitsIn.toNat_le {m v : Word} (hv : BitsIn m v) : v.toNat ≤ m.toNat := by
  have h : v = v &&& m := by
    refine BitVec.eq_of_getLsbD_eq fun i _ => ?_
    have := (bitsIn_iff m v).mp hv i
    cases hvi : v.getLsbD i <;> simp_all
  rw [h, BitVec.toNat_and]
  exact Nat.and_le_right

/-- A value below `2 ^ k` has bits in the lowest `k` places only. -/
theorem bitsIn_of_toNat_lt (k : Nat) (v : Word) (h : v.toNat < 2 ^ k) : BitsIn (BitVec.ofNat 32 (2 ^ k - 1)) v := by
  rw [bitsIn_iff]
  intro i hi
  have hik : i < k := by
    by_contra hge
    have := Nat.testBit_lt_two_pow (h.trans_le (Nat.pow_le_pow_right two_pos (Nat.le_of_not_lt hge)))
    rw [BitVec.getLsbD, this] at hi
    cases hi
  simp [BitVec.getLsbD_ofNat, Nat.testBit_two_pow_sub_one, hik, BitVec.lt_of_getLsbD hi]

theorem wmask_bitsIn_liveMask (r : Reg) : BitsIn r.liveMask r.wmask := by cases r <;> rfl

theorem liveMask_bitsIn_rmask (r : Reg) : BitsIn r.rmask r.liveMask := by cases r <;> rfl

/-! ### The reserved bits of the register file -/

theorem resetValue_of_stored (r : Reg) : Reg.stored r = true → r.resetValue = 0#32 := by cases r <;> decide

/-- STATUS, ICS and IMC always read their reset value (10_state.md R17, R22, R24). -/
theorem reg_of_unstored (s : State) (r : Reg) (h : Reg.stored r = false) : s.reg r = r.resetValue := by
  cases r
  case status => rfl
  case ics => rfl
  case imc => rfl
  all_goals cases h

/-- The invariant speaks of the stored registers only: every one of them is 0 at reset. -/
theorem regInv_iff (s : State) : RegInv s ↔ ∀ r, Reg.stored r = true → BitsIn r.liveMask (s.reg r) := by
  constructor
  · intro h r hr
    have hm : r ∈ Reg.all := by cases r <;> decide
    have hreset := h r hm
    rwa [resetValue_of_stored r hr, BitVec.zero_and] at hreset
  · intro h r _
    cases hr : Reg.stored r
    · rw [reg_of_unstored s r hr]
    · rw [resetValue_of_stored r hr, BitVec.zero_and]
      exact h r hr

theorem regInv_congr {s t : State} (h : t.regs = s.regs) (hs : RegInv s) : RegInv t := by
  intro r hr
  rw [reg_congr h]
  exact hs r hr

theorem regInv_setReg {s : State} (hs : RegInv s) (r : Reg) (v : Word) (hv : BitsIn r.liveMask v) :
    RegInv (s.setReg r v) := by
  rw [regInv_iff] at *
  intro q hq
  by_cases hqr : q = r
  · subst hqr
    rwa [reg_setReg_same s q v hq]
  · rw [reg_setReg_other s r q v hqr]
    exact hs q hq

theorem regInv_reset : RegInv State.reset := by decide

theorem storeMasked_keeps_regInv {s : State} (hs : RegInv s) (r : Reg) (wv : Word) (be : BitVec 4) :
    RegInv (storeMasked r wv be s) := by
  cases hr : Reg.stored r
  · exact regInv_congr (RegFile.set_unstored s.regs _ r hr) hs
  · refine regInv_setReg hs r _ (BitsIn.or (((regInv_iff s).mp hs r hr).and _) ?_)
    exact ((bitsIn_and_self r.wmask wv).mono (wmask_bitsIn_liveMask r)).and _


/-! ### Every write of a register stays inside its mask -/

/-- A value below 2^16 fits a head or a tail register. -/
theorem bitsIn_low16 (v : Word) (h : v.toNat < 65536) : BitsIn 0x0000FFFF#32 v := bitsIn_of_toNat_lt 16 v h

/-- A word whose bit 31 is 0 fits MDIC. -/
theorem bitsIn_low31 (v : Word) (h : v.msb = false) : BitsIn 0x7FFFFFFF#32 v := by
  rw [BitVec.msb_eq_false_iff_two_mul_lt] at h
  exact bitsIn_of_toNat_lt 31 v (by omega)

theorem mdic_bitsIn {s : State} (hs : RegInv s) : BitsIn Reg.mdic.liveMask (s.reg .mdic) := (regInv_iff s).mp hs .mdic rfl

theorem eerd_bitsIn {s : State} (hs : RegInv s) : BitsIn Reg.eerd.liveMask (s.reg .eerd) := (regInv_iff s).mp hs .eerd rfl

theorem setEerdDone_keeps_regInv {s : State} (hs : RegInv s) (b : Bool) : RegInv (setEerdDone b s) :=
  regInv_setReg hs .eerd _ ((eerd_bitsIn hs).setBit 4 b rfl)

theorem eerdStart_keeps_regInv {s : State} (hs : RegInv s) (adr : Byte) (data : BitVec 16) :
    RegInv (eerdStart adr data s) := by
  have hadr : BitsIn Reg.eerd.liveMask (adr.setWidth 32 <<< 8) := by
    rw [bitsIn_iff]
    intro i hi
    simp only [BitVec.getLsbD_shiftLeft, BitVec.getLsbD_setWidth, Bool.and_eq_true, Bool.not_eq_true',
      decide_eq_true_eq, decide_eq_false_iff_not] at hi
    obtain ⟨⟨_, hlo⟩, _, hadr⟩ := hi
    have hhi := BitVec.lt_of_getLsbD hadr
    have : 8 ≤ i ∧ i < 16 := by omega
    obtain ⟨_, _⟩ := this
    interval_cases i <;> rfl
  exact setEerdDone_keeps_regInv (regInv_setReg hs .eerd _ (((eerd_bitsIn hs).and _).or hadr)) true

/-- ICR holds any word. -/
theorem raiseCause_keeps_regInv {s : State} (hs : RegInv s) (bits : Word) : RegInv (raiseCause bits s) :=
  regInv_congr (evaluate_regs _) (regInv_setReg hs .icr _ (bitsIn_of_toNat_lt 32 _ (BitVec.isLt _)))

theorem mdiDone_keeps_regInv {s : State} (hs : RegInv s) (err : Bool) : RegInv (mdiDone err s) := by
  have h := regInv_setReg hs .mdic _ (((mdic_bitsIn hs).setBit 30 err rfl).setBit 28 true rfl)
  unfold mdiDone
  dsimp only
  split
  · exact raiseCause_keeps_regInv h causeMdac
  · exact h

theorem mdiLoad_keeps_regInv {s : State} (hs : RegInv s) (op : BitVec 2) (pa : BitVec 5) (c : MdiFields) :
    RegInv (mdiLoad op pa c s) := by
  have henc : (encodeMdi op pa c).msb = false := by
    simp only [encodeMdi, BitVec.msb_append]; rfl
  exact regInv_setReg hs .mdic _ (((mdic_bitsIn hs).and _).or (bitsIn_low31 _ henc))

theorem setMdicData_keeps_regInv {s : State} (hs : RegInv s) (v : BitVec 16) : RegInv (setMdicData v s) := by
  have hv : (v.setWidth 32).toNat < 65536 := by
    rw [BitVec.toNat_setWidth]; omega
  exact regInv_setReg hs .mdic _ (((mdic_bitsIn hs).and _).or ((bitsIn_low16 _ hv).mono rfl))

theorem runMdi_keeps_regInv {s : State} (hs : RegInv s) (cmd : MdiCmd) : RegInv (runMdi cmd s) := by
  cases cmd with
  | read c => exact mdiDone_keeps_regInv (setMdicData_keeps_regInv (mdiLoad_keeps_regInv hs _ _ c) _) false
  | write c =>
    exact mdiDone_keeps_regInv (regInv_congr (phyWrite_regs _ _ _) (mdiLoad_keeps_regInv hs _ _ c)) false
  | reserved op pa c => exact mdiDone_keeps_regInv (mdiLoad_keeps_regInv hs op pa c) true

theorem deviceReset_regInv (s : State) : RegInv (deviceReset s) := by
  rw [deviceReset_eq]
  exact regInv_reset

theorem tick_regs (s : State) : (tick s).regs = s.regs := by
  rcases tick_cases s with ⟨_, h⟩ | ⟨_, h⟩ | ⟨_, _, h⟩ <;> rw [h]
  · exact evaluate_regs _

/-! ### The heads stay below the ring's count -/

/-- A ring length register holds at most 0xFFFF descriptors: its bits 31:20 are reserved. -/
theorem ringCount_le {len : Word} (h : BitsIn 0x000FFFF0#32 len) : (len >>> 4).toNat ≤ 0xFFFF := by
  have hle : len.toNat ≤ 0xFFFF0 := h.toNat_le
  rw [BitVec.toNat_ushiftRight, Nat.shiftRight_eq_div_pow]
  omega

theorem txCount_le {s : State} (hs : RegInv s) : txCount s ≤ 0xFFFF := ringCount_le ((regInv_iff s).mp hs .tdlen rfl)

theorem rxCount_le {s : State} (hs : RegInv s) : rxCount s ≤ 0xFFFF := ringCount_le ((regInv_iff s).mp hs .rdlen rfl)

/-- An index of a non-empty ring fits a head register. -/
theorem nextIndex_bitsIn (i n : Nat) (h0 : n ≠ 0) (hn : n ≤ 0xFFFF) :
    BitsIn 0x0000FFFF#32 (BitVec.ofNat 32 ((i + 1) % n)) := by
  have hlt : (i + 1) % n < n := Nat.mod_lt _ (Nat.pos_of_ne_zero h0)
  refine bitsIn_low16 _ ?_
  rw [BitVec.toNat_ofNat, Nat.mod_eq_of_lt (by omega)]
  omega

theorem advanceTdh_keeps_regInv {s : State} (hs : RegInv s) (nt : Nat) (h0 : nt ≠ 0) (hn : nt ≤ 0xFFFF) :
    RegInv (advanceTdh nt s) :=
  regInv_setReg hs .tdh _ (nextIndex_bitsIn _ nt h0 hn)

theorem advanceRdh_keeps_regInv {s : State} (hs : RegInv s) (nr : Nat) (h0 : nr ≠ 0) (hn : nr ≤ 0xFFFF) :
    RegInv (advanceRdh nr s) :=
  regInv_setReg hs .rdh _ (nextIndex_bitsIn _ nr h0 hn)

theorem txDrain_keeps_regInv {s : State} (hs : RegInv s) : RegInv (txDrain s) := by
  rcases txDrain_cases s with ⟨_, e⟩ | ⟨hr, u, hu, e⟩ <;> rw [e]
  · exact hs
  · obtain ⟨h0, -, -⟩ := (ringRefused_eq_false _ _ _).mp hr
    have hloop : RegInv u := by
      rw [hu]
      refine txLoop_keeps (P := RegInv) (txCount s) (fun v hv => ?_) _ _ hs
      exact advanceTdh_keeps_regInv (regInv_congr (txStep_sameBlock v).regs hv) _ h0 (txCount_le hs)
    split
    · exact raiseCause_keeps_regInv (s := { u with tx := TxAsm.fresh }) hloop causeTxdw
    · exact hloop

theorem rxFetch_keeps_regInv {s : State} (hs : RegInv s) (nr : Nat) (h0 : nr ≠ 0) (hn : nr ≤ 0xFFFF) :
    RegInv (rxFetch nr s).2 := by
  rcases rxFetch_cases nr s with ⟨_, e⟩ | ⟨_, e⟩ <;> rw [e] <;>
    refine advanceRdh_keeps_regInv ?_ nr h0 hn <;> exact hs

theorem receiveFrame_keeps_regInv {s : State} (hs : RegInv s) (frame : List Byte) : RegInv (receiveFrame frame s) := by
  rcases receiveFrame_cases frame s with ⟨_, e⟩ | ⟨hr, _, need, g, _, hg, hcases⟩
  · rw [e]
    exact hs
  · obtain ⟨h0, -, -⟩ := (ringRefused_eq_false _ _ _).mp hr
    have hgather : RegInv g.2 := by
      rw [hg]
      exact rxGather_keeps (P := RegInv) (rxCount s) (fun v hv => rxFetch_keeps_regInv hv _ h0 (rxCount_le hs)) _ _ s hs
    rcases hcases with ⟨_, e⟩ | ⟨_, e⟩ <;> rw [e]
    · exact hgather
    · refine raiseCause_keeps_regInv ?_ causeRxt0
      exact rxFill_keeps (P := RegInv) (fun b v hv => regInv_congr (rxFillOne_sameBlock b v).regs hv)
        (fun _ _ hv => hv) frame g.1 need _ g.2 hgather

/-! ### The reserved bits under a step -/

theorem writeHook_keeps_regInv {s : State} (hs : RegInv s) (wv : Word) (be : BitVec 4) (r : Reg) :
    RegInv (writeHook wv be r s) := by
  have any (v : Word) : BitsIn 0xFFFFFFFF#32 v := bitsIn_of_toNat_lt 32 v v.isLt
  cases r
  case ctrl =>
    simp only [writeHook]
    split
    · exact deviceReset_regInv s
    · exact hs
  case eerd =>
    simp only [writeHook]
    split
    · split
      · exact eerdStart_keeps_regInv hs _ _
      · exact setEerdDone_keeps_regInv hs false
    · exact hs
  case mdic =>
    simp only [writeHook]
    split
    · exact runMdi_keeps_regInv hs _
    · exact hs
  case icr => exact regInv_congr (evaluate_regs _) (regInv_setReg hs .icr _ (any _))
  case ics => exact raiseCause_keeps_regInv hs wv
  case ims => exact regInv_congr (evaluate_regs _) (regInv_setReg hs .ims _ (any _))
  case imc => exact regInv_congr (evaluate_regs _) (regInv_setReg hs .ims _ (any _))
  case tdt => exact txDrain_keeps_regInv hs
  all_goals exact hs

theorem accessOutcome_keeps_regInv {s t : State} (h : AccessOutcome s t) (hs : RegInv s) : RegInv t := by
  cases h with
  | fault c => exact hs
  | read v => exact hs
  | ignored => exact hs
  | write r wv be => exact writeHook_keeps_regInv (storeMasked_keeps_regInv hs r wv be) wv be r

theorem step_keeps_regInv (s t : State) (hs : RegInv s) (h : step s = .next t) : RegInv t := by
  cases step_outcome s t h with
  | nothing => exact hs
  | guestStore => exact hs
  | remap => exact hs
  | access acc rest u _ hu =>
    exact (runAccess_keeps (fun _ _ => accessOutcome_keeps_regInv) acc _ u hu hs)
  | frame f rest => exact receiveFrame_keeps_regInv (s := { s with inbox := rest, bus := Bus.idle }) hs f
  | tick => exact regInv_congr (tick_regs _) hs
  | powerOn => exact deviceReset_regInv _

theorem regAt_eq_none (a : Nat) (h : ∀ r ∈ Reg.all, r.offset ≠ a) : regAt a = none :=
  List.find?_eq_none.mpr fun r hr => by simpa using h r hr

theorem resetValue_of_unstored (r : Reg) : Reg.stored r = false → r.resetValue &&& ~~~r.rmask = 0#32 := by
  cases r <;> decide

theorem regInv_masked_zero (s : State) (hs : RegInv s) (r : Reg) : s.reg r &&& ~~~r.rmask = 0#32 := by
  cases hr : Reg.stored r
  · rw [reg_of_unstored s r hr]
    exact resetValue_of_unstored r hr
  · exact ((regInv_iff s).mp hs r hr).mono (liveMask_bitsIn_rmask r)

/-- Settles O23: every write of a register stays inside its live mask, a head because ring counts are below 2^16. -/
theorem stepKeepsReservedBits : Obligations.StepKeepsReservedBits :=
  ⟨by decide, regAt_eq_none, step_keeps_regInv, fun s hs r _ => regInv_masked_zero s hs r⟩

/-! ### What is in progress and guest memory -/

/-- The response, the assembly, the fill and guest memory are the same. -/
structure SameProgress (s t : State) : Prop where
  bus : t.bus = s.bus
  tx : t.tx = s.tx
  rx : t.rx = s.rx
  mem : t.mem = s.mem

theorem SameProgress.refl (s : State) : SameProgress s s := ⟨rfl, rfl, rfl, rfl⟩

theorem SameProgress.trans {s t u : State} (h : SameProgress s t) (k : SameProgress t u) : SameProgress s u :=
  ⟨k.bus.trans h.bus, k.tx.trans h.tx, k.rx.trans h.rx, k.mem.trans h.mem⟩

theorem evaluate_sameProgress (s : State) : SameProgress s (evaluate s) :=
  ⟨evaluate_bus s, evaluate_tx s, evaluate_rx s, evaluate_mem s⟩

theorem raiseCause_sameProgress (bits : Word) (s : State) : SameProgress s (raiseCause bits s) :=
  ⟨raiseCause_bus bits s, raiseCause_tx bits s, raiseCause_rx bits s, raiseCause_mem bits s⟩

theorem deviceReset_sameProgress (s : State) : SameProgress s (deviceReset s) := by
  rw [deviceReset_eq]
  exact ⟨rfl, rfl, rfl, rfl⟩

theorem tick_sameProgress (s : State) : SameProgress s (tick s) := by
  rcases tick_cases s with ⟨_, e⟩ | ⟨_, e⟩ | ⟨_, _, e⟩ <;> rw [e]
  · exact .refl s
  · exact SameProgress.trans (by constructor <;> rfl) (evaluate_sameProgress _)
  · exact ⟨rfl, rfl, rfl, rfl⟩

theorem mdiDone_sameProgress (err : Bool) (s : State) : SameProgress s (mdiDone err s) := by
  unfold mdiDone
  dsimp only
  split
  · exact SameProgress.trans (by constructor <;> rfl) (raiseCause_sameProgress causeMdac _)
  · exact ⟨rfl, rfl, rfl, rfl⟩

theorem runMdi_sameProgress (cmd : MdiCmd) (s : State) : SameProgress s (runMdi cmd s) := by
  cases cmd with
  | read c => exact SameProgress.trans (by constructor <;> rfl) (mdiDone_sameProgress false _)
  | write c =>
    refine SameProgress.trans ?_ (mdiDone_sameProgress false _)
    constructor <;> simp
  | reserved op pa c => exact SameProgress.trans (by constructor <;> rfl) (mdiDone_sameProgress true _)

/-- Of all the hooks only the doorbell's reaches an engine. -/
theorem writeHook_sameProgress (wv : Word) (be : BitVec 4) (r : Reg) (hr : r ≠ .tdt) (s : State) :
    SameProgress s (writeHook wv be r s) := by
  cases r
  case tdt => exact absurd rfl hr
  case ctrl =>
    simp only [writeHook]
    split
    · exact deviceReset_sameProgress s
    · exact .refl s
  case eerd =>
    simp only [writeHook]
    split
    · split <;> exact ⟨rfl, rfl, rfl, rfl⟩
    · exact .refl s
  case mdic =>
    simp only [writeHook]
    split
    · exact runMdi_sameProgress _ s
    · exact .refl s
  case icr => exact SameProgress.trans (by constructor <;> rfl) (evaluate_sameProgress _)
  case ics => exact raiseCause_sameProgress wv s
  case ims => exact SameProgress.trans (by constructor <;> rfl) (evaluate_sameProgress _)
  case imc => exact SameProgress.trans (by constructor <;> rfl) (evaluate_sameProgress _)
  all_goals exact .refl s

/-! ### The engines and what is in progress -/

/-- Both engines are idle and guest memory is in its canonical form. -/
structure EnginesIdle (s : State) : Prop where
  tx : s.tx = TxAsm.fresh
  rx : s.rx = none
  mem : MemInv s

theorem SameProgress.enginesIdle {s t : State} (h : SameProgress s t) (hs : EnginesIdle s) : EnginesIdle t :=
  ⟨h.tx.trans hs.tx, h.rx.trans hs.rx, by rw [MemInv, h.mem]; exact hs.mem⟩

/-- A descriptor's step leaves the receive fill alone and keeps the canonical form of guest memory. -/
structure TxFrame (s t : State) : Prop where
  rx : t.rx = s.rx
  wf : MemInv s → MemInv t

theorem TxFrame.refl (s : State) : TxFrame s s := ⟨rfl, id⟩

theorem TxFrame.trans {s t u : State} (h : TxFrame s t) (k : TxFrame t u) : TxFrame s u :=
  ⟨k.rx.trans h.rx, fun hs => k.wf (h.wf hs)⟩

theorem startPacket_txFrame (k : TxKind) (b : Bool) (p : Byte) (s : State) : TxFrame s (startPacket k b p s) :=
  ⟨startPacket_rx k b p s, fun h => by rwa [MemInv, startPacket_mem]⟩

theorem gatherBuffer_txFrame (a : Addr) (len : Nat) (s : State) : TxFrame s (gatherBuffer a len s).2 :=
  ⟨gatherBuffer_rx a len s, fun h => by rwa [MemInv, gatherBuffer_mem]⟩

theorem endPacket_txFrame (eop : Bool) (ic : Option (Byte × Byte)) (s : State) : TxFrame s (endPacket eop ic s).2 :=
  ⟨endPacket_rx eop ic s, fun h => by rwa [MemInv, endPacket_mem]⟩

theorem finishDesc_txFrame (rs : Bool) (rsv : BitVec 4) (f o : Bool) (s : State) :
    TxFrame s (finishDesc rs rsv f o s) :=
  ⟨txWriteBack_rx rsv (txStatus rs f o) s, txWriteBack_keeps_wf rsv (txStatus rs f o) s⟩

theorem runTxd_txFrame (d : TxDesc) (s : State) : TxFrame s (runTxd d s) := by
  cases d with
  | legacy d =>
    exact ((startPacket_txFrame _ _ _ s).trans (gatherBuffer_txFrame _ _ _)).trans
      ((endPacket_txFrame _ _ _).trans (finishDesc_txFrame _ _ _ _ _))
  | data d =>
    exact ((startPacket_txFrame _ _ _ s).trans (gatherBuffer_txFrame _ _ _)).trans
      ((endPacket_txFrame _ _ _).trans (finishDesc_txFrame _ _ _ _ _))
  | context d => exact TxFrame.trans (by exact ⟨rfl, id⟩) (finishDesc_txFrame d.rs d.rsv false false _)
  | reserved d =>
    refine (startPacket_txFrame .legacy false 0#8 s).trans (TxFrame.trans ?_ (finishDesc_txFrame _ _ _ _ _))
    split <;> exact ⟨rfl, id⟩

theorem txStep_txFrame (s : State) : TxFrame s (txStep s) := by
  rcases txStep_cases s with ⟨_, e⟩ | ⟨_, e⟩ <;> rw [e]
  · exact TxFrame.trans (by exact ⟨rfl, id⟩) (runTxd_txFrame _ _)
  · exact ⟨rfl, id⟩

theorem txLoop_txFrame (nt fuel : Nat) (s : State) : TxFrame s (txLoop nt fuel s) :=
  txLoop_keeps (P := TxFrame s) nt (fun v hv => (hv.trans (txStep_txFrame v)).trans ⟨rfl, id⟩) fuel s (.refl s)

/-- A drain starts with a fresh assembly and ends with one (44_transmit.md R241, R261). -/
theorem txDrain_keeps_enginesIdle {s : State} (hs : EnginesIdle s) : EnginesIdle (txDrain s) := by
  rcases txDrain_cases s with ⟨_, e⟩ | ⟨_, u, hu, e⟩ <;> rw [e]
  · exact hs
  · have hloop : TxFrame s u := by
      rw [hu]
      exact TxFrame.trans (by exact ⟨rfl, id⟩) (txLoop_txFrame _ _ _)
    have hidle : EnginesIdle { u with tx := TxAsm.fresh } := ⟨rfl, hloop.rx.trans hs.rx, hloop.wf hs.mem⟩
    split
    · exact (raiseCause_sameProgress causeTxdw _).enginesIdle hidle
    · exact hidle

theorem rxFetch_sameProgress (nr : Nat) (s : State) : SameProgress s (rxFetch nr s).2 := by
  rcases rxFetch_cases nr s with ⟨_, e⟩ | ⟨_, e⟩ <;> rw [e] <;> exact ⟨rfl, rfl, rfl, rfl⟩

theorem rxGather_sameProgress (nr free need : Nat) (s : State) : SameProgress s (rxGather nr free need s).2 :=
  rxGather_keeps (P := SameProgress s) nr (fun v hv => hv.trans (rxFetch_sameProgress nr v)) free need s (.refl s)

/-- The receive fill leaves the response and the transmit assembly alone and keeps the canonical form of guest memory. -/
structure RxFrame (s t : State) : Prop where
  bus : t.bus = s.bus
  tx : t.tx = s.tx
  wf : MemInv s → MemInv t

theorem RxFrame.trans {s t u : State} (h : RxFrame s t) (k : RxFrame t u) : RxFrame s u :=
  ⟨k.bus.trans h.bus, k.tx.trans h.tx, fun hs => k.wf (h.wf hs)⟩

@[simp] theorem rxWriteBack_tx (a : Addr) (n : Nat) (c : BitVec 16) (st er : Byte) (s : State) :
    (rxWriteBack a n c st er s).tx = s.tx := by
  rcases rxWriteBack_cases a n c st er s with ⟨_, e⟩ | ⟨_, e⟩ <;> rw [e] <;> rfl

@[simp] theorem rxWriteBuffer_tx (b : Addr) (v : List Byte) (s : State) : (rxWriteBuffer b v s).2.tx = s.tx := by
  rcases rxWriteBuffer_cases b v s with ⟨_, e⟩ | ⟨_, _, e⟩ | ⟨_, _, e⟩ <;> rw [e] <;> rfl

@[simp] theorem rxFillOne_tx (b : Addr) (s : State) : (rxFillOne b s).tx = s.tx := by
  unfold rxFillOne
  split
  · rfl
  · split
    · rfl
    · simp

theorem rxFillOne_rxFrame (b : Addr) (s : State) : RxFrame s (rxFillOne b s) :=
  ⟨(rxFillOne_sameBlock b s).bus, rxFillOne_tx b s, rxFillOne_keeps_wf b s⟩

theorem rxFill_rxFrame (frame : List Byte) (got : List (Addr × RxDesc)) (need B : Nat) (s : State) :
    RxFrame s (rxFill frame got need B s) :=
  rxFill_keeps (P := RxFrame s) (fun b v hv => hv.trans (rxFillOne_rxFrame b v)) (fun _ _ hv => ⟨hv.bus, hv.tx, hv.wf⟩)
    frame got need B s ⟨rfl, rfl, id⟩

theorem rxFill_rx (frame : List Byte) (got : List (Addr × RxDesc)) (need B : Nat) (s : State) :
    (rxFill frame got need B s).rx = none := rfl

/-! ### No operation outlives its step -/

/-- Between two operations: no operation in progress, and guest memory in its canonical form. -/
def QuietCanonical (s : State) : Prop := Quiet s ∧ MemInv s

theorem quietCanonical_iff (s : State) : QuietCanonical s ↔ s.bus = Bus.idle ∧ EnginesIdle s := by
  constructor
  · rintro ⟨⟨hbus, htx, hrx⟩, hmem⟩
    exact ⟨hbus, htx, hrx, hmem⟩
  · rintro ⟨hbus, htx, hrx, hmem⟩
    exact ⟨⟨hbus, htx, hrx⟩, hmem⟩

theorem SameProgress.quietCanonical {s t : State} (h : SameProgress s t) (hs : QuietCanonical s) : QuietCanonical t := by
  rw [quietCanonical_iff] at *
  exact ⟨h.bus.trans hs.1, h.enginesIdle hs.2⟩

theorem receiveFrame_keeps_quietCanonical {s : State} (hs : QuietCanonical s) (frame : List Byte) :
    QuietCanonical (receiveFrame frame s) := by
  rcases receiveFrame_cases frame s with ⟨_, e⟩ | ⟨_, _, need, g, _, hg, hcases⟩
  · rw [e]
    exact hs
  · have hgather : QuietCanonical g.2 := by
      rw [hg]
      exact (rxGather_sameProgress _ _ _ s).quietCanonical hs
    rcases hcases with ⟨_, e⟩ | ⟨_, e⟩ <;> rw [e]
    · exact hgather
    · obtain ⟨⟨hbus, htx, -⟩, hmem⟩ := hgather
      obtain ⟨fbus, ftx, fwf⟩ := rxFill_rxFrame frame g.1 need (rxBufSize (s.reg .rctl)) g.2
      exact (raiseCause_sameProgress causeRxt0 _).quietCanonical
        ⟨⟨fbus.trans hbus, ftx.trans htx, rxFill_rx frame g.1 need _ g.2⟩, fwf hmem⟩

/-- Inside an access only the response is in progress. -/
theorem accessOutcome_keeps_enginesIdle {s t : State} (h : AccessOutcome s t) (hs : EnginesIdle s) : EnginesIdle t := by
  cases h with
  | fault c => exact ⟨hs.tx, hs.rx, hs.mem⟩
  | read v => exact ⟨hs.tx, hs.rx, hs.mem⟩
  | ignored => exact hs
  | write r wv be =>
    have hstore : EnginesIdle (storeMasked r wv be s) := ⟨hs.tx, hs.rx, hs.mem⟩
    by_cases hr : r = .tdt
    · subst hr
      exact txDrain_keeps_enginesIdle hstore
    · exact (writeHook_sameProgress wv be r hr _).enginesIdle hstore

theorem step_keeps_quietCanonical (s t : State) (hs : QuietCanonical s) (h : step s = .next t) : QuietCanonical t := by
  obtain ⟨⟨hbus, htx, hrx⟩, hmem⟩ := hs
  cases step_outcome s t h with
  | nothing => exact ⟨⟨hbus, htx, hrx⟩, hmem⟩
  | guestStore a v => exact ⟨⟨hbus, htx, hrx⟩, Memory.write_keeps_wf s.mem a.toNat v a.isLt hmem⟩
  | remap => exact ⟨⟨hbus, htx, hrx⟩, hmem⟩
  | access acc rest u _ hu =>
    obtain ⟨utx, urx, umem⟩ : EnginesIdle u :=
      runAccess_keeps (fun _ _ => accessOutcome_keeps_enginesIdle) acc _ u hu ⟨htx, hrx, hmem⟩
    exact ⟨⟨rfl, utx, urx⟩, umem⟩
  | frame f rest =>
    exact receiveFrame_keeps_quietCanonical (s := { s with inbox := rest, bus := Bus.idle }) ⟨⟨rfl, htx, hrx⟩, hmem⟩ f
  | tick => exact (tick_sameProgress _).quietCanonical ⟨⟨rfl, htx, hrx⟩, hmem⟩
  | powerOn => exact (deviceReset_sameProgress _).quietCanonical ⟨⟨rfl, htx, hrx⟩, hmem⟩

/-- Settles O24, by what each operation of an agent does to the response, the engines and guest memory. -/
theorem stepEndsQuietWithCanonicalMemory : Obligations.StepEndsQuietWithCanonicalMemory :=
  fun s t hq hm h => step_keeps_quietCanonical s t ⟨hq, hm⟩ h

/-! ### Reset -/

/-- A CTRL write is the masked store, and a reset after it if RST is written 1 (41_control_regs.md R151). -/
theorem exec_wrCtrl (wv : Word) (be : BitVec 4) (s : State) :
    exec (.wrCtrl wv be) s =
      .next (if wv.getLsbD 26 then deviceReset (storeMasked .ctrl wv be s) else storeMasked .ctrl wv be s) :=
  exec_wrInstr wv be .ctrl s

/-- Settles O15, from the equation of `deviceReset`. -/
theorem controlWriteAndReset : Obligations.ControlWriteAndReset := by
  intro s wv be
  refine ⟨fun hrst => ?_, fun hrst => ?_, ?_⟩
  · rw [exec_wrCtrl, hrst]
    rfl
  · rw [exec_wrCtrl, hrst, if_pos rfl, deviceReset_eq]
    rfl
  · exact congrArg Host.Outcome.next (deviceReset_eq s)

/-- Settles O16, invariant by invariant. -/
theorem resetStateIsSafe : Obligations.ResetStateIsSafe := by
  have hirq : IrqInv State.reset := by decide
  have hquiet : Quiet State.reset := ⟨rfl, rfl, rfl⟩
  have hmem : MemInv State.reset := rfl
  exact ⟨hirq, regInv_reset, hquiet, hmem⟩

end Sys2Proof.Machine
end

section
/-! SUPPORT. What a read access answers, what a DMA access moves and what a repeated register write leaves: the proofs of the
statements about guest memory and the register region (20_memory.md). -/

namespace Sys2Proof.Machine

/-! ### DMA -/

/-- A range that passes 2^64 is not mapped, whatever the holes (20_memory.md R72). -/
theorem mappable_past_end (holes : List Hole) (a : Addr) (n : Nat) (h : 2 ^ 64 < a.toNat + n) :
    mappable holes a n = false := by
  cases hm : mappable holes a n
  · rfl
  · exact absurd (mappable_bound holes a n hm) (Nat.not_le_of_lt h)

/-- Settles O60, by the two cases of `MemRead` and of `MemWrite`. -/
theorem dmaIsAllOrNothing : Obligations.DmaIsAllOrNothing := by
  intro s a n v
  refine ⟨mappable_past_end s.holes a n, fun hno => ?_, fun hm => ?_, fun hno => ?_, fun hm hwf => ?_⟩
  · rcases memRead_cases a n s with ⟨hm, _⟩ | ⟨_, e⟩
    · exact absurd (hm.symm.trans hno) (by decide)
    · exact e
  · rcases memRead_cases a n s with ⟨_, e⟩ | ⟨hno, _⟩
    · exact ⟨_, e, Memory.readRange_length s.mem a.toNat n, fun i hi => Memory.byteAt_readRange s.mem a.toNat n i hi⟩
    · exact absurd (hm.symm.trans hno) (by decide)
  · rcases memWrite_cases a v s with ⟨hm, _⟩ | ⟨_, e⟩
    · exact absurd (hm.symm.trans hno) (by decide)
    · exact e
  · have hend := mappable_bound s.holes a v.length hm
    rcases memWrite_cases a v s with ⟨_, e⟩ | ⟨hno, _⟩
    · exact ⟨_, e, Memory.writeRange_keeps_wf v s.mem a.toNat hend hwf,
        fun i hi => Memory.read_writeRange_same v s.mem a.toNat i hi hend hwf,
        fun k hk => Memory.read_writeRange_other v s.mem a.toNat k hk⟩
    · exact absurd (hm.symm.trans hno) (by decide)

/-! ### A read access -/

/-- The word a dword read of an offset yields: the register's, or 0 where no register is (40_dispatcher.md R133, R136). -/
def dwordAt (s : State) (a : Nat) : Word :=
  match regAt a with
  | some r => dwRead s r
  | none => 0#32

/-- A dword read depends on the registers and the MAC only. -/
theorem dwordAt_congr {s t : State} (hregs : t.regs = s.regs) (hmac : t.mac = s.mac) (a : Nat) :
    dwordAt t a = dwordAt s a := by
  have hread (r : Reg) : dwRead t r = dwRead s r := by
    cases r <;> simp only [dwRead, readValue, eerdAddr, State.reg, hregs, hmac]
  unfold dwordAt
  split
  · exact hread _
  · rfl

theorem exec_dwordInstr_read (o : DwordOp) (s : State) :
    exec (dwordInstr .read o) s = .next (yieldRead (dwordAt s o.a) s) := by
  unfold dwordInstr dwordAt
  cases regAt o.a with
  | some r => exact exec_rdInstr r s
  | none => rfl

/-- Dword reads run in order: each adds its word to the response and nothing else changes. -/
theorem runInstrs_reads (ops : List DwordOp) (s : State) :
    runInstrs (ops.map (dwordInstr .read)) s =
      .next { s with bus := { s.bus with reads := s.bus.reads ++ ops.map (fun o => dwordAt s o.a) } } := by
  induction ops generalizing s with
  | nil => simp [runInstrs]
  | cons o ops ih =>
    rw [List.map_cons, runInstrs, exec_dwordInstr_read]
    simp only [ih, dwordAt_congr (yieldRead_regs _ s) (yieldRead_mac _ s)]
    simp [yieldRead]

/-- A step on an access runs its decoded operations from an idle response and then answers (40_dispatcher.md R130). -/
theorem step_access {s u : State} {acc : Access} {rest : List Input} (hin : s.inbox = .op (.access acc) :: rest)
    (hu : runInstrs (decodeAccess acc) { s with inbox := rest, bus := Bus.idle } = .next u) :
    step s = .next (finishOperation (.access acc) u) := by
  have hdec : decodeOperation (.access acc) = decodeAccess acc := rfl
  simp only [step, hin, runInput, runOperation, hdec, hu]

theorem step_failing_access {s : State} {acc : Access} {rest : List Input} {c : AccessCause}
    (hin : s.inbox = .op (.access acc) :: rest) (hc : checkAccess acc.off acc.width = some c) :
    step s =
      .next { s with
        inbox := rest, bus := Bus.idle, out := s.out ++ [.raised (.access c), .response 0#64 true] } := by
  have hdec : decodeAccess acc = [.accessFault c acc] := by simp only [decodeAccess, hc]
  rw [step_access hin (by rw [hdec]; rfl)]
  simp [finishOperation, State.emit, raiseFault]

/-- The response of a read that passes the checks. -/
def readAnswer (s : State) (acc : Access) : BitVec 64 :=
  assembleRead acc ((normalise acc).map (fun o => dwordAt s o.a))

theorem step_read_access {s : State} {acc : Access} {rest : List Input}
    (hin : s.inbox = .op (.access acc) :: rest) (hdir : acc.dir = .read)
    (hc : checkAccess acc.off acc.width = none) :
    step s =
      .next { s with inbox := rest, bus := Bus.idle, out := s.out ++ [.response (readAnswer s acc) false] } := by
  have hdec : decodeAccess acc = (normalise acc).map (dwordInstr .read) := by simp only [decodeAccess, hc, hdir]
  rw [step_access hin (by rw [hdec]; exact runInstrs_reads _ _)]
  rfl

/-- An access passes the checks exactly if its width is legal, it ends inside the region and it is aligned
(40_dispatcher.md R131). -/
theorem checkAccess_eq_none (off width : Nat) :
    checkAccess off width = none ↔
      (width = 1 ∨ width = 2 ∨ width = 4 ∨ width = 8) ∧ off + width ≤ Config.mmioSize ∧ off % width = 0 := by
  unfold checkAccess
  split_ifs <;> simp_all

/-- A byte of the `n` bytes that stand in a word from its lane `l` on. -/
theorem byte_of_lanes (w : Word) (l n i : Nat) (hi : i < n) (hn : n ≤ 8) :
    (((w >>> (8 * l)).setWidth (8 * n)).setWidth 64).extractLsb' (8 * i) 8 = w.extractLsb' (8 * (l + i)) 8 := by
  rw [BitVec.extractLsb'_setWidth_of_le (by omega), BitVec.extractLsb'_setWidth_of_le (by omega)]
  refine BitVec.eq_of_getLsbD_eq fun j _ => ?_
  simp only [BitVec.getLsbD_extractLsb', BitVec.getLsbD_ushiftRight]
  rw [show 8 * l + (8 * i + j) = 8 * (l + i) + j by omega]

/-- A byte above the `n` bytes of a value is 0. -/
theorem byte_above (n : Nat) (w : BitVec (8 * n)) (i : Nat) (hi : n ≤ i) :
    (w.setWidth 64).extractLsb' (8 * i) 8 = 0#8 := by
  refine BitVec.eq_of_getLsbD_eq fun j hj => ?_
  have hzero : w.getLsbD (8 * i + j) = false := BitVec.getLsbD_of_ge _ _ (by omega)
  simp [BitVec.getLsbD_extractLsb', BitVec.getLsbD_setWidth, hzero]

/-- A read of at most 4 bytes answers the bytes of its one dword from its lane on. -/
theorem readAnswer_single (s : State) (acc : Access) (hw : acc.width = 1 ∨ acc.width = 2 ∨ acc.width = 4)
    (halign : acc.off % acc.width = 0) :
    readAnswer s acc =
      ((dwordAt s (acc.off / 4 * 4) >>> (8 * (acc.off % 4))).setWidth (8 * acc.width)).setWidth 64 := by
  obtain ⟨dir, off, width, wdata⟩ := acc
  have hbase : off - off % 4 = off / 4 * 4 := by omega
  dsimp only at hw halign
  rcases hw with rfl | rfl | rfl
  · simp [readAnswer, assembleRead, normalise, hbase]
  · simp [readAnswer, assembleRead, normalise, hbase]
  · have hoff : off / 4 * 4 = off := by omega
    simp [readAnswer, assembleRead, normalise, hoff, halign]

/-- An 8-byte read answers its two dwords, the one at the higher offset above the other. -/
theorem readAnswer_double (s : State) (acc : Access) (hw : acc.width = 8) :
    readAnswer s acc = dwordAt s (acc.off + 4) ++ dwordAt s acc.off := by
  simp [readAnswer, assembleRead, normalise, hw]

/-- Byte `i` of a read is byte `off + i` of the region (20_memory.md R61, 30_encoding.md R94). -/
theorem readAnswer_byte (s : State) (acc : Access) (hc : checkAccess acc.off acc.width = none) (i : Nat)
    (hi : i < acc.width) :
    (readAnswer s acc).extractLsb' (8 * i) 8 =
      (dwordAt s ((acc.off + i) / 4 * 4)).extractLsb' (8 * ((acc.off + i) % 4)) 8 := by
  obtain ⟨hw, -, halign⟩ := (checkAccess_eq_none _ _).mp hc
  by_cases h8 : acc.width = 8
  · rw [h8] at halign hi
    rw [readAnswer_double s acc h8]
    by_cases hlow : i < 4
    · rw [BitVec.extractLsb'_append_eq_of_add_le (by omega), show (acc.off + i) / 4 * 4 = acc.off by omega,
        show (acc.off + i) % 4 = i by omega]
    · rw [BitVec.extractLsb'_append_eq_of_le (by omega), show (acc.off + i) / 4 * 4 = acc.off + 4 by omega,
        show 8 * i - 32 = 8 * ((acc.off + i) % 4) by omega]
  · have hw4 : acc.width = 1 ∨ acc.width = 2 ∨ acc.width = 4 := by omega
    have hlane : acc.off % 4 + i < 4 := by rcases hw4 with h | h | h <;> rw [h] at halign hi <;> omega
    rw [readAnswer_single s acc hw4 halign, byte_of_lanes _ _ _ _ hi (by omega),
      show (acc.off + i) / 4 * 4 = acc.off / 4 * 4 by omega, show (acc.off + i) % 4 = acc.off % 4 + i by omega]

/-- Above its width a read answers zeros. -/
theorem readAnswer_above (s : State) (acc : Access) (hc : checkAccess acc.off acc.width = none) (i : Nat)
    (hi : acc.width ≤ i) (h8 : i < 8) : (readAnswer s acc).extractLsb' (8 * i) 8 = 0#8 := by
  obtain ⟨hw, -, halign⟩ := (checkAccess_eq_none _ _).mp hc
  rw [readAnswer_single s acc (by omega) halign]
  exact byte_above acc.width _ i hi

/-- Settles O10: the two outcomes of the checks, the answered data byte by byte. -/
theorem readAccessAnswersAndChangesNothing : Obligations.ReadAccessAnswersAndChangesNothing := by
  intro s acc rest hin hdir
  refine ⟨fun hc => ?_, fun c hc => step_failing_access hin hc⟩
  refine ⟨readAnswer s acc, step_read_access hin hdir hc, fun i hi => ?_, readAnswer_above s acc hc⟩
  rw [readAnswer_byte s acc hc i hi, dwordAt]
  cases regAt ((acc.off + i) / 4 * 4) with
  | some r => rfl
  | none => exact BitVec.extractLsb'_zero

/-! ### A repeated register write -/

theorem RegFile.set_get (f : RegFile) (r : Reg) : f.set (f.get r) r = f := by cases r <;> rfl

theorem RegFile.set_set (f : RegFile) (v w : Word) (r : Reg) : (f.set v r).set w r = f.set w r := by cases r <;> rfl

/-- Storing what a register holds changes nothing. -/
theorem setReg_self (s : State) (r : Reg) : s.setReg r (s.reg r) = s := by
  rw [State.setReg, State.reg, RegFile.set_get]

theorem setReg_of_reg_eq {s : State} {r : Reg} {v : Word} (h : s.reg r = v) : s.setReg r v = s := by
  rw [← h, setReg_self]

theorem setReg_setReg (s : State) (r : Reg) (v w : Word) : (s.setReg r v).setReg r w = s.setReg r w := by
  simp only [State.setReg, RegFile.set_set]

theorem storeMasked_eq_setReg (r : Reg) (wv : Word) (be : BitVec 4) (s : State) :
    storeMasked r wv be s = s.setReg r (storedValue (s.reg r) r.wmask wv be) := rfl

theorem getLsbD_storedValue (old m wv : Word) (be : BitVec 4) (i : Nat) (hi : i < 32) :
    (storedValue old m wv be).getLsbD i =
      if m.getLsbD i && (byteMask be).getLsbD i then wv.getLsbD i else old.getLsbD i := by
  simp only [storedValue, BitVec.getLsbD_or, BitVec.getLsbD_and, BitVec.getLsbD_not, hi, decide_true, Bool.true_and]
  cases m.getLsbD i <;> cases (byteMask be).getLsbD i <;> simp

theorem storedValue_idem (old m wv : Word) (be : BitVec 4) :
    storedValue (storedValue old m wv be) m wv be = storedValue old m wv be := by
  refine BitVec.eq_of_getLsbD_eq fun i hi => ?_
  simp only [getLsbD_storedValue _ _ _ _ _ hi]
  split_ifs <;> rfl

/-- The word holds every bit that the masked store writes: the store leaves it as it is. -/
def HoldsStore (r : Reg) (wv : Word) (be : BitVec 4) (w : Word) : Prop := storedValue w r.wmask wv be = w

theorem storeMasked_of_unstored {s : State} {r : Reg} (hr : Reg.stored r = false) (wv : Word) (be : BitVec 4) :
    storeMasked r wv be s = s := by
  rw [storeMasked_eq_setReg, State.setReg, RegFile.set_unstored _ _ _ hr]

theorem storeMasked_of_holdsStore {s : State} {r : Reg} {wv : Word} {be : BitVec 4}
    (h : HoldsStore r wv be (s.reg r)) : storeMasked r wv be s = s := by
  rw [storeMasked_eq_setReg, h, setReg_self]

/-- After a masked store of a stored register it holds the bits stored. -/
theorem storeMasked_holdsStore {r : Reg} (hr : Reg.stored r = true) (wv : Word) (be : BitVec 4) (s : State) :
    HoldsStore r wv be ((storeMasked r wv be s).reg r) := by
  rw [storeMasked_eq_setReg, reg_setReg_same _ _ _ hr]
  exact storedValue_idem _ _ _ _

theorem storeMasked_storeMasked (r : Reg) (wv : Word) (be : BitVec 4) (s : State) :
    storeMasked r wv be (storeMasked r wv be s) = storeMasked r wv be s := by
  cases hr : Reg.stored r
  · exact storeMasked_of_unstored hr wv be
  · exact storeMasked_of_holdsStore (storeMasked_holdsStore hr wv be s)

/-! ### The interrupt line settles -/

/-- Once evaluated, the line has nothing more to do (60_exceptions.md R347, R348). -/
theorem evaluate_evaluate (s : State) : evaluate (evaluate s) = evaluate s := by
  rcases evaluate_cases s with ⟨hw, _, _, e⟩ | ⟨hw, _, e⟩ | ⟨_, _, e⟩
  · have hwanted : irqWanted { setLine true s with itrHoldoff := itrInterval s } = true := hw
    rw [e, evaluate, if_pos hwanted]
    rfl
  · have hwanted : irqWanted (setLine false s) = false := hw
    rw [e, evaluate, hwanted]
    rfl
  · rw [e, e]

/-- An idempotent update of a stored register with the line evaluated after it is idempotent as a whole. -/
theorem evaluate_update_again (s : State) (r : Reg) (f : Word → Word) (hr : Reg.stored r = true)
    (hf : ∀ v, f (f v) = f v) :
    evaluate ((evaluate (s.setReg r (f (s.reg r)))).setReg r (f ((evaluate (s.setReg r (f (s.reg r)))).reg r))) =
      evaluate (s.setReg r (f (s.reg r))) := by
  have hreg : (evaluate (s.setReg r (f (s.reg r)))).reg r = f (s.reg r) :=
    (reg_congr (evaluate_regs _) r).trans (reg_setReg_same s r _ hr)
  rw [hreg, hf, setReg_of_reg_eq hreg, evaluate_evaluate]

theorem raiseCause_raiseCause (bits : Word) (s : State) : raiseCause bits (raiseCause bits s) = raiseCause bits s :=
  evaluate_update_again s .icr (· ||| bits) rfl fun v => by rw [BitVec.or_assoc, BitVec.or_self]

/-- A register whose `wmask` is 0 discards what is stored (40_dispatcher.md R134). -/
theorem storeMasked_of_wmask_zero {r : Reg} (h : r.wmask = 0#32) (wv : Word) (be : BitVec 4) (s : State) :
    storeMasked r wv be s = s := by
  refine setReg_of_reg_eq ?_
  rw [h, BitVec.zero_and, BitVec.not_zero, BitVec.and_allOnes, BitVec.and_zero, BitVec.zero_and, BitVec.or_zero]

/-! ### The drain empties the ring -/

theorem txHead_congr {s t : State} (h : t.reg .tdh = s.reg .tdh) : txHead t = txHead s := by rw [txHead, h, txHead]

theorem txTail_congr {s t : State} (h : t.reg .tdt = s.reg .tdt) : txTail t = txTail s := by rw [txTail, h, txTail]

/-- No round of the drain writes a register other than the head. -/
theorem txLoop_reg_other (nt fuel : Nat) (s : State) (q : Reg) (hq : q ≠ .tdh) : (txLoop nt fuel s).reg q = s.reg q :=
  txLoop_keeps (P := fun t => t.reg q = s.reg q) nt
    (fun t ht => (reg_setReg_other _ .tdh q _ hq).trans ((reg_congr (txStep_sameBlock t).regs q).trans ht)) fuel s rfl

/-- One round of the drain moves the head on by one place. -/
theorem txHead_advance (nt : Nat) (s : State) (h0 : 0 < nt) (hn : nt ≤ 2 ^ 32) :
    txHead (advanceTdh nt (txStep s)) = (txHead s + 1) % nt := by
  have hstep : txHead (txStep s) = txHead s := txHead_congr (reg_congr (txStep_sameBlock s).regs .tdh)
  have hlt : (txHead s + 1) % nt < nt := Nat.mod_lt _ h0
  rw [txHead, advanceTdh, reg_setReg_same _ _ _ rfl, hstep, BitVec.toNat_ofNat, Nat.mod_eq_of_lt (by omega)]

/-- With a round of fuel for each of the `k` places from the head to the tail, the loop ends with the head at the tail
(44_transmit.md R241). -/
theorem txLoop_head_eq_tail (nt fuel : Nat) (s : State) (hn : nt ≤ 2 ^ 32) (hhead : txHead s < nt) (k : Nat)
    (hk : k ≤ fuel) (htail : txTail s = (txHead s + k) % nt) :
    txHead (txLoop nt fuel s) = txTail (txLoop nt fuel s) := by
  induction fuel generalizing s k with
  | zero =>
    obtain rfl : k = 0 := Nat.le_zero.mp hk
    rw [txLoop, htail, Nat.add_zero, Nat.mod_eq_of_lt hhead]
  | succ fuel ih =>
    unfold txLoop
    split
    · next h => exact h
    · next hne =>
      cases k with
      | zero => exact absurd (by rw [htail, Nat.add_zero, Nat.mod_eq_of_lt hhead]) hne
      | succ k =>
        have h0 : 0 < nt := Nat.zero_lt_of_lt hhead
        have hround := txHead_advance nt s h0 hn
        have hsame : txTail (advanceTdh nt (txStep s)) = txTail s :=
          txTail_congr ((reg_setReg_other _ .tdh .tdt _ (by decide)).trans (reg_congr (txStep_sameBlock s).regs .tdt))
        refine ih _ (by rw [hround]; exact Nat.mod_lt _ h0) k (by omega) ?_
        rw [hsame, hround, htail, Nat.mod_add_mod, Nat.add_assoc, Nat.add_comm 1 k]

/-- On a usable ring the tail is at most a whole turn ahead of the head. -/
theorem exists_places_to_tail {n head tail : Nat} (hhead : head < n) (htail : tail < n) :
    ∃ k ≤ n, tail = (head + k) % n := by
  by_cases h : head ≤ tail
  · exact ⟨tail - head, by omega, by rw [Nat.add_sub_cancel' h, Nat.mod_eq_of_lt htail]⟩
  · refine ⟨tail + n - head, by omega, ?_⟩
    rw [show head + (tail + n - head) = tail + n by omega, Nat.add_mod_right, Nat.mod_eq_of_lt htail]

theorem txLoop_of_head_eq_tail (nt fuel : Nat) (s : State) (h : txHead s = txTail s) : txLoop nt fuel s = s := by
  cases fuel with
  | zero => rfl
  | succ fuel => rw [txLoop, if_pos h]

/-- A drain of an empty ring does nothing (44_transmit.md R241). -/
theorem txDrain_of_head_eq_tail {s : State} (h : txHead s = txTail s) (hfresh : s.tx = TxAsm.fresh) : txDrain s = s := by
  have hs : { s with tx := TxAsm.fresh } = s := by rw [← hfresh]
  rcases txDrain_cases s with ⟨_, e⟩ | ⟨_, u, hu, e⟩
  · exact e
  · rw [hs, txLoop_of_head_eq_tail _ _ s h] at hu
    rw [e, hu, hs, hfresh]
    rfl

theorem txDrain_reg_other (s : State) (q : Reg) (htdh : q ≠ .tdh) (hicr : q ≠ .icr) : (txDrain s).reg q = s.reg q := by
  rcases txDrain_cases s with ⟨_, e⟩ | ⟨_, u, hu, e⟩
  · rw [e]
  · have hloop : u.reg q = s.reg q := by rw [hu]; exact txLoop_reg_other _ _ _ q htdh
    rw [e]
    split
    · exact ((reg_congr (evaluate_regs _) q).trans (reg_setReg_other _ .icr q _ hicr)).trans hloop
    · exact hloop

/-- A drain of a usable ring ends with the head at the tail and nothing in the assembly (44_transmit.md R241, R261). -/
theorem txDrain_empties {s : State} (hring : ringRefused (txCount s) (txHead s) (txTail s) = false) :
    txHead (txDrain s) = txTail (txDrain s) ∧ (txDrain s).tx = TxAsm.fresh := by
  rcases txDrain_cases s with ⟨hr, _⟩ | ⟨_, u, hu, e⟩
  · exact absurd (hr.symm.trans hring) (by decide)
  · obtain ⟨-, hhead, htail⟩ := (ringRefused_eq_false _ _ _).mp hring
    obtain ⟨k, hk, hplaces⟩ := exists_places_to_tail hhead htail
    have hcount : txCount s ≤ 2 ^ 32 := (BitVec.isLt _).le
    have hmeet : txHead u = txTail u := by
      rw [hu]
      exact txLoop_head_eq_tail _ _ { s with tx := TxAsm.fresh } hcount hhead k hk hplaces
    rw [e]
    split
    · have hregs (q : Reg) (hq : q ≠ .icr) : (raiseCause causeTxdw { u with tx := TxAsm.fresh }).reg q = u.reg q :=
        (reg_congr (evaluate_regs _) q).trans (reg_setReg_other _ .icr q _ hq)
      rw [txHead_congr (hregs .tdh (by decide)), txTail_congr (hregs .tdt (by decide))]
      exact ⟨hmeet, raiseCause_tx _ _⟩
    · exact ⟨hmeet, rfl⟩

/-- A second doorbell finds nothing left to do: the ring cannot be used, or the first emptied it. -/
theorem txDrain_txDrain (s : State) : txDrain (txDrain s) = txDrain s := by
  cases hring : ringRefused (txCount s) (txHead s) (txTail s)
  · obtain ⟨hmeet, hfresh⟩ := txDrain_empties hring
    exact txDrain_of_head_eq_tail hmeet hfresh
  · have hsame : txDrain s = s := by rw [txDrain, if_pos hring]
    rw [hsame, hsame]

/-! ### Bits outside the mask -/

theorem getLsbD_setBit (w : Word) (i j : Nat) (b : Bool) (hi : i < 32) :
    (setBit w i b).getLsbD j = if j = i then b else w.getLsbD j := by
  unfold setBit
  by_cases hj : j < 32
  · by_cases hji : j = i
    · cases b <;> simp [hji, hi]
    · cases b <;> simp [hj, hji]
  · have hji : j ≠ i := by omega
    rw [BitVec.getLsbD_of_ge _ j (by omega), if_neg hji, BitVec.getLsbD_of_ge w j (by omega)]

theorem setBit_setBit (w : Word) (i : Nat) (b c : Bool) (hi : i < 32) : setBit (setBit w i b) i c = setBit w i c := by
  refine BitVec.eq_of_getLsbD_eq fun j _ => ?_
  rw [getLsbD_setBit _ _ _ _ hi, getLsbD_setBit _ _ _ _ hi, getLsbD_setBit _ _ _ _ hi]
  split_ifs <;> rfl

theorem setBit_comm (w : Word) (i k : Nat) (b c : Bool) (hi : i < 32) (hk : k < 32) (hik : i ≠ k) :
    setBit (setBit w i b) k c = setBit (setBit w k c) i b := by
  refine BitVec.eq_of_getLsbD_eq fun j _ => ?_
  simp only [getLsbD_setBit _ _ _ _ hi, getLsbD_setBit _ _ _ _ hk]
  split_ifs with h1 h2
  · exact absurd (h2.symm.trans h1) hik
  all_goals rfl

theorem extractLsb'_setBit (w : Word) (i : Nat) (b : Bool) (start len : Nat) (hi : i < 32)
    (hout : i < start ∨ start + len ≤ i) : (setBit w i b).extractLsb' start len = w.extractLsb' start len := by
  refine BitVec.eq_of_getLsbD_eq fun j hj => ?_
  rw [BitVec.getLsbD_extractLsb', BitVec.getLsbD_extractLsb', getLsbD_setBit _ _ _ _ hi, if_neg (by omega)]

/-- A bit outside the write mask and a masked store do not meet. -/
theorem storedValue_setBit (w m wv : Word) (be : BitVec 4) (i : Nat) (b : Bool) (hi : i < 32)
    (hm : m.getLsbD i = false) : storedValue (setBit w i b) m wv be = setBit (storedValue w m wv be) i b := by
  refine BitVec.eq_of_getLsbD_eq fun j hj => ?_
  simp only [getLsbD_setBit _ _ _ _ hi, getLsbD_storedValue _ _ _ _ _ hj]
  by_cases hji : j = i
  · simp [hji, hm]
  · simp [hji]

theorem HoldsStore.setBit {r : Reg} {wv : Word} {be : BitVec 4} {w : Word} (h : HoldsStore r wv be w) (i : Nat)
    (b : Bool) (hi : i < 32) (hm : r.wmask.getLsbD i = false) : HoldsStore r wv be (setBit w i b) := by
  rw [HoldsStore, storedValue_setBit _ _ _ _ _ _ hi hm, h]

/-! ### EERD -/

/-- The address that stands in EERD, stored there again, changes nothing. -/
theorem eerd_addr_again (w : Word) :
    (w &&& ~~~Reg.eerd.wmask) ||| ((w.extractLsb' 8 8).setWidth 32 <<< 8) = w := by
  have hmask : ∀ i < 32, Reg.eerd.wmask.getLsbD i = (decide (8 ≤ i) && decide (i < 16)) := by decide
  refine BitVec.eq_of_getLsbD_eq fun i hi => ?_
  simp only [BitVec.getLsbD_or, BitVec.getLsbD_and, BitVec.getLsbD_not, BitVec.getLsbD_shiftLeft,
    BitVec.getLsbD_setWidth, BitVec.getLsbD_extractLsb', hi, hmask i hi]
  by_cases hlo : i < 8
  · simp [hlo, Nat.not_le.mpr hlo]
  · by_cases hhi : i < 16
    · simp [hlo, hhi, Nat.le_of_not_lt hlo, show i - 8 < 8 by omega, show i - 8 < 32 by omega]
    · simp [hlo, hhi, Nat.le_of_not_lt hlo, show ¬ i - 8 < 8 by omega]

/-- The hook of an EERD write sets DONE or clears it (43_eeprom_mdic.md R211). -/
theorem writeHook_eerd (wv : Word) (be : BitVec 4) (s : State) :
    writeHook wv be .eerd s = if be.getLsbD 0 then setEerdDone (wv.getLsbD 0) s else s := by
  have hstart (data : BitVec 16) : eerdStart (eerdAddr s) data s = setEerdDone true s := by
    rw [eerdStart, eerdAddr, eerd_addr_again, setReg_self]
  simp only [writeHook, hstart]
  cases be.getLsbD 0 <;> cases wv.getLsbD 0 <;> rfl

/-- The state after setting DONE is one in which neither the store nor setting DONE changes anything. -/
theorem setEerdDone_again {s : State} {wv : Word} {be : BitVec 4} (h : HoldsStore .eerd wv be (s.reg .eerd)) (b : Bool) :
    setEerdDone b (storeMasked .eerd wv be (setEerdDone b s)) = setEerdDone b s := by
  have hreg : (setEerdDone b s).reg .eerd = setBit (s.reg .eerd) 4 b := reg_setReg_same s .eerd _ rfl
  have hstore : storeMasked .eerd wv be (setEerdDone b s) = setEerdDone b s :=
    storeMasked_of_holdsStore (by rw [hreg]; exact h.setBit 4 b (by decide) (by decide))
  rw [hstore, setEerdDone, hreg, setBit_setBit _ _ _ _ (by decide)]
  exact setReg_of_reg_eq hreg

/-! ### MDIC -/

/-- The fields that every MDI command reads from MDIC (10_state.md R19). -/
def mdiFields (w : Word) : MdiFields :=
  { i := w.getLsbD 29, regadd := w.extractLsb' 16 5, data := w.extractLsb' 0 16 }

/-- An MDI command as the value of MDIC. -/
def mdiCommandWord : MdiCmd → Word
  | .read c => encodeMdi 0b10#2 Config.phyAddr c
  | .write c => encodeMdi 0b01#2 Config.phyAddr c
  | .reserved op phyadd c => encodeMdi op phyadd c

/-- The decoder takes the command apart by PHYADD and OP (43_eeprom_mdic.md R221, R223). -/
theorem decodeMdi_eq (w : Word) :
    decodeMdi w =
      if w.extractLsb' 21 5 ≠ Config.phyAddr then .reserved (w.extractLsb' 26 2) (w.extractLsb' 21 5) (mdiFields w)
      else if w.extractLsb' 26 2 = 0b10#2 then .read (mdiFields w)
      else if w.extractLsb' 26 2 = 0b01#2 then .write (mdiFields w)
      else .reserved (w.extractLsb' 26 2) (w.extractLsb' 21 5) (mdiFields w) := rfl

theorem mdiCommandWord_decodeMdi (w : Word) :
    mdiCommandWord (decodeMdi w) = encodeMdi (w.extractLsb' 26 2) (w.extractLsb' 21 5) (mdiFields w) := by
  rw [decodeMdi_eq]
  split_ifs with hpa hread hwrite
  · rfl
  · rw [mdiCommandWord, hread, not_not.mp hpa]
  · rw [mdiCommandWord, hwrite, not_not.mp hpa]
  · rfl

/-- The command that stands in MDIC, stored there again, changes nothing. -/
theorem mdic_command_again (w : Word) : (w &&& ~~~Reg.mdic.wmask) ||| mdiCommandWord (decodeMdi w) = w := by
  rw [mdiCommandWord_decodeMdi]
  refine BitVec.eq_of_getLsbD_eq fun i hi => ?_
  simp only [encodeMdi, mdiFields, flagBit, BitVec.getLsbD_or, BitVec.getLsbD_and, BitVec.getLsbD_append]
  interval_cases i <;> simp [Reg.wmask]

/-- MDIC with its data replaced (43_eeprom_mdic.md R222). -/
def withData (w : Word) (v : BitVec 16) : Word := (w &&& 0xFFFF0000#32) ||| v.setWidth 32

theorem getLsbD_withData (w : Word) (v : BitVec 16) (i : Nat) :
    (withData w v).getLsbD i = if i < 16 then v.getLsbD i else w.getLsbD i := by
  have hmask : ∀ i < 32, (0xFFFF0000#32).getLsbD i = decide (16 ≤ i) := by decide
  by_cases hi : i < 32
  · simp only [withData, BitVec.getLsbD_or, BitVec.getLsbD_and, BitVec.getLsbD_setWidth, hmask i hi, hi]
    split_ifs with hlow
    · simp [Nat.not_le.mpr hlow]
    · simp [Nat.le_of_not_lt hlow]
  · rw [BitVec.getLsbD_of_ge _ i (by omega), if_neg (by omega), BitVec.getLsbD_of_ge w i (by omega)]

theorem withData_withData (w : Word) (u v : BitVec 16) : withData (withData w u) v = withData w v := by
  refine BitVec.eq_of_getLsbD_eq fun i _ => ?_
  simp only [getLsbD_withData]
  split_ifs <;> rfl

theorem withData_setBit (w : Word) (v : BitVec 16) (i : Nat) (b : Bool) (hi : i < 32) (hhigh : 16 ≤ i) :
    withData (setBit w i b) v = setBit (withData w v) i b := by
  refine BitVec.eq_of_getLsbD_eq fun j _ => ?_
  simp only [getLsbD_withData, getLsbD_setBit _ _ _ _ hi]
  split_ifs
  · omega
  all_goals rfl

theorem extractLsb'_withData (w : Word) (v : BitVec 16) (start len : Nat) (hhigh : 16 ≤ start) :
    (withData w v).extractLsb' start len = w.extractLsb' start len := by
  refine BitVec.eq_of_getLsbD_eq fun j _ => ?_
  rw [BitVec.getLsbD_extractLsb', BitVec.getLsbD_extractLsb', getLsbD_withData, if_neg (by omega)]

/-- A masked store over replaced data changes the data alone, if the word under it held what is stored. -/
theorem storedValue_withData {w m wv : Word} {be : BitVec 4} (h : storedValue w m wv be = w) (v : BitVec 16) :
    storedValue (withData w v) m wv be = withData w ((storedValue (withData w v) m wv be).extractLsb' 0 16) := by
  refine BitVec.eq_of_getLsbD_eq fun i hi => ?_
  rw [getLsbD_withData]
  split_ifs with hlow
  · simp [hlow]
  · have hbit := congrArg (BitVec.getLsbD · i) h
    simp only [getLsbD_storedValue _ _ _ _ _ hi] at hbit
    rw [getLsbD_storedValue _ _ _ _ _ hi, getLsbD_withData, if_neg hlow]
    exact hbit

/-- MDIC at the end of an MDI operation: E tells of an error and R is set (43_eeprom_mdic.md R221). -/
def mdicDone (err : Bool) (w : Word) : Word := setBit (setBit w 30 err) 28 true

theorem mdicDone_mdicDone (err : Bool) (w : Word) : mdicDone err (mdicDone err w) = mdicDone err w := by
  simp only [mdicDone]
  rw [setBit_comm (setBit w 30 err) 28 30 _ _ (by decide) (by decide) (by decide), setBit_setBit _ 30 _ _ (by decide),
    setBit_setBit _ 28 _ _ (by decide)]

theorem withData_mdicDone (err : Bool) (w : Word) (v : BitVec 16) :
    withData (mdicDone err w) v = mdicDone err (withData w v) := by
  rw [mdicDone, withData_setBit _ _ _ _ (by decide) (by decide), withData_setBit _ _ _ _ (by decide) (by decide),
    mdicDone]

theorem storedValue_mdicDone (err : Bool) (w wv : Word) (be : BitVec 4) :
    storedValue (mdicDone err w) Reg.mdic.wmask wv be = mdicDone err (storedValue w Reg.mdic.wmask wv be) := by
  rw [mdicDone, storedValue_setBit _ _ _ _ _ _ (by decide) (by decide),
    storedValue_setBit _ _ _ _ _ _ (by decide) (by decide), mdicDone]

/-- E and R are no part of the command. -/
theorem decodeMdi_mdicDone (err : Bool) (w : Word) : decodeMdi (mdicDone err w) = decodeMdi w := by
  have hfield (start len : Nat) (h : start + len ≤ 28 ∨ 28 < start ∧ start + len ≤ 30) :
      (mdicDone err w).extractLsb' start len = w.extractLsb' start len := by
    rw [mdicDone, extractLsb'_setBit _ _ _ _ _ (by decide) (by omega),
      extractLsb'_setBit _ _ _ _ _ (by decide) (by omega)]
  have hirq : (mdicDone err w).getLsbD 29 = w.getLsbD 29 := by
    rw [mdicDone, getLsbD_setBit _ _ _ _ (by decide), getLsbD_setBit _ _ _ _ (by decide)]
    rfl
  rw [decodeMdi_eq, decodeMdi_eq, mdiFields, mdiFields, hirq, hfield 26 2 (by decide), hfield 21 5 (by decide),
    hfield 16 5 (by decide), hfield 0 16 (by decide)]

/-- Replacing the data leaves a read command that command, but for the data it carries. -/
theorem decodeMdi_withData {w : Word} {c : MdiFields} (h : decodeMdi w = .read c) (v : BitVec 16) :
    ∃ d, decodeMdi (withData w v) = .read { c with data := d } := by
  rw [decodeMdi_eq] at h
  split_ifs at h with hpa hread
  cases h
  refine ⟨(withData w v).extractLsb' 0 16, ?_⟩
  rw [decodeMdi_eq, extractLsb'_withData _ _ _ _ (by decide), extractLsb'_withData _ _ _ _ (by decide),
    if_neg hpa, if_pos hread, mdiFields, extractLsb'_withData _ _ _ _ (by decide), getLsbD_withData]
  rfl

/-- The interrupt request at the end of an MDI operation: MDAC, if I is 1 (43_eeprom_mdic.md R221). -/
def mdiNotify (s : State) : State := if (s.reg .mdic).getLsbD 29 then raiseCause causeMdac s else s

theorem mdiDone_eq (err : Bool) (s : State) : mdiDone err s = mdiNotify (s.setReg .mdic (mdicDone err (s.reg .mdic))) := rfl

theorem mdiNotify_mdic (s : State) : (mdiNotify s).reg .mdic = s.reg .mdic := by
  unfold mdiNotify
  split
  · exact (reg_congr (evaluate_regs _) .mdic).trans (reg_setReg_other s .icr .mdic _ (by decide))
  · rfl

theorem mdiNotify_mdiNotify (s : State) : mdiNotify (mdiNotify s) = mdiNotify s := by
  rw [mdiNotify, mdiNotify_mdic]
  split_ifs with hirq
  · rw [mdiNotify, if_pos hirq, raiseCause_raiseCause]
  · rfl

@[simp] theorem mdiDone_mdic (err : Bool) (s : State) : (mdiDone err s).reg .mdic = mdicDone err (s.reg .mdic) := by
  rw [mdiDone_eq, mdiNotify_mdic]
  exact reg_setReg_same s .mdic _ rfl

@[simp] theorem mdiDone_phy0 (err : Bool) (s : State) : (mdiDone err s).phy0 = s.phy0 := by
  rw [mdiDone_eq, mdiNotify]
  split
  · exact raiseCause_phy0 _ _
  · rfl

/-- The end of an MDI operation, done again, changes nothing. -/
theorem mdiDone_mdiDone (err : Bool) (s : State) : mdiDone err (mdiDone err s) = mdiDone err s := by
  have hreg : (mdiDone err s).reg .mdic = mdicDone err ((mdiDone err s).reg .mdic) := by
    rw [mdiDone_mdic, mdicDone_mdicDone]
  rw [mdiDone_eq err (mdiDone err s), setReg_of_reg_eq hreg, mdiDone_eq, mdiNotify_mdiNotify]

/-- A PHY that holds what the same register write left is not changed by it. -/
theorem phyWrite_again {s t : State} {r : BitVec 5} {v : BitVec 16} (h : t.phy0 = (phyWrite r v s).phy0) :
    phyWrite r v t = t := by
  by_cases hr : r = 0#5
  · simp only [phyWrite, if_pos hr] at h ⊢
    rw [← h]
  · rw [phyWrite, if_neg hr]

theorem phyRead_congr {s t : State} (h : t.phy0 = s.phy0) (r : BitVec 5) : phyRead t r = phyRead s r := by
  rw [phyRead, h, phyRead]

section OwnCommand

/-! The MDI operation of the command that stands in MDIC: what is loaded stands there already. -/

variable {s : State} {c : MdiFields}

theorem runMdi_own_read (h : decodeMdi (s.reg .mdic) = .read c) :
    runMdi (decodeMdi (s.reg .mdic)) s = mdiDone false (setMdicData (phyRead s c.regadd) s) := by
  have hown := mdic_command_again (s.reg .mdic)
  rw [h] at hown ⊢
  have hload : mdiLoad 0b10#2 Config.phyAddr c s = s := setReg_of_reg_eq hown.symm
  rw [runMdi, mdiRead, hload]

theorem runMdi_own_write (h : decodeMdi (s.reg .mdic) = .write c) :
    runMdi (decodeMdi (s.reg .mdic)) s = mdiDone false (phyWrite c.regadd c.data s) := by
  have hown := mdic_command_again (s.reg .mdic)
  rw [h] at hown ⊢
  have hload : mdiLoad 0b01#2 Config.phyAddr c s = s := setReg_of_reg_eq hown.symm
  rw [runMdi, mdiWrite, hload]

theorem runMdi_own_reserved {op : BitVec 2} {pa : BitVec 5} (h : decodeMdi (s.reg .mdic) = .reserved op pa c) :
    runMdi (decodeMdi (s.reg .mdic)) s = mdiDone true s := by
  have hown := mdic_command_again (s.reg .mdic)
  rw [h] at hown ⊢
  have hload : mdiLoad op pa c s = s := setReg_of_reg_eq hown.symm
  rw [runMdi, mdiReserved, hload]

/-! The same write after it: a read finds its data replaced by the store and replaces it again; the others find what they
left. -/

variable {wv : Word} {be : BitVec 4}

theorem storeMasked_mdiDone (hs : HoldsStore .mdic wv be (s.reg .mdic)) (err : Bool) :
    storeMasked .mdic wv be (mdiDone err s) = mdiDone err s := by
  refine storeMasked_of_holdsStore ?_
  rw [HoldsStore, mdiDone_mdic, storedValue_mdicDone, hs]

/-- The data a read puts in MDIC may be overwritten by the store, and the same read puts it there again. -/
theorem runMdi_again_read (hs : HoldsStore .mdic wv be (s.reg .mdic)) (hc : decodeMdi (s.reg .mdic) = .read c)
    {t : State} (ht : mdiDone false (setMdicData (phyRead s c.regadd) s) = t) :
    runMdi (decodeMdi ((storeMasked .mdic wv be t).reg .mdic)) (storeMasked .mdic wv be t) = t := by
  have htreg : t.reg .mdic = mdicDone false (withData (s.reg .mdic) (phyRead s c.regadd)) := by
    rw [← ht, mdiDone_mdic, setMdicData, reg_setReg_same _ _ _ rfl, withData]
  have hphy : (storeMasked .mdic wv be t).phy0 = s.phy0 := by
    rw [storeMasked_phy0, ← ht, mdiDone_phy0, setMdicData_phy0]
  obtain ⟨g, hg⟩ : ∃ g, (storeMasked .mdic wv be t).reg .mdic = mdicDone false (withData (s.reg .mdic) g) := by
    rw [storeMasked_eq_setReg, reg_setReg_same _ _ _ rfl, htreg, storedValue_mdicDone, storedValue_withData hs]
    exact ⟨_, rfl⟩
  obtain ⟨d, hd⟩ := decodeMdi_withData hc g
  have hdec : decodeMdi ((storeMasked .mdic wv be t).reg .mdic) = .read { c with data := d } := by
    rw [hg, decodeMdi_mdicDone, hd]
  have hdata : setMdicData (phyRead s c.regadd) (storeMasked .mdic wv be t) = t := by
    rw [setMdicData, ← withData, hg, withData_mdicDone, withData_withData, ← htreg, storeMasked_eq_setReg,
      setReg_setReg, setReg_self]
  rw [runMdi_own_read hdec, phyRead_congr hphy, hdata, ← ht, mdiDone_mdiDone]

/-- An MDI operation whose command the masked store left is repeated by the same write without effect. -/
theorem runMdi_again (hs : HoldsStore .mdic wv be (s.reg .mdic)) {t : State}
    (ht : runMdi (decodeMdi (s.reg .mdic)) s = t) :
    runMdi (decodeMdi ((storeMasked .mdic wv be t).reg .mdic)) (storeMasked .mdic wv be t) = t := by
  cases hc : decodeMdi (s.reg .mdic) with
  | read c => exact runMdi_again_read hs hc ((runMdi_own_read hc).symm.trans ht)
  | write c =>
    have hreg : (phyWrite c.regadd c.data s).reg .mdic = s.reg .mdic := reg_congr (phyWrite_regs _ _ _) .mdic
    rw [runMdi_own_write hc] at ht
    have hstore : storeMasked .mdic wv be t = t := by rw [← ht, storeMasked_mdiDone (by rw [hreg]; exact hs)]
    have hdec : decodeMdi (t.reg .mdic) = .write c := by rw [← ht, mdiDone_mdic, hreg, decodeMdi_mdicDone, hc]
    have hphy : phyWrite c.regadd c.data t = t := phyWrite_again (s := s) (by rw [← ht, mdiDone_phy0])
    rw [hstore, runMdi_own_write hdec, hphy, ← ht, mdiDone_mdiDone]
  | reserved op pa c =>
    rw [runMdi_own_reserved hc] at ht
    have hstore : storeMasked .mdic wv be t = t := by rw [← ht, storeMasked_mdiDone hs]
    have hdec : decodeMdi (t.reg .mdic) = .reserved op pa c := by rw [← ht, mdiDone_mdic, decodeMdi_mdicDone, hc]
    rw [hstore, runMdi_own_reserved hdec, ← ht, mdiDone_mdiDone]

end OwnCommand

/-! ### Every register -/

/-- A reset leaves nothing for another to do, whatever CTRL was written between them. -/
theorem deviceReset_again (s : State) (v : Word) : deviceReset ((deviceReset s).setReg .ctrl v) = deviceReset s := by
  simp [deviceReset_eq, State.setReg]

/-- The masked store and the hook of a write, run again on what they left, leave the same (20_memory.md R68). -/
theorem writeHook_again (r : Reg) (wv : Word) (be : BitVec 4) (s : State) :
    writeHook wv be r (storeMasked r wv be (writeHook wv be r (storeMasked r wv be s))) =
      writeHook wv be r (storeMasked r wv be s) := by
  cases r
  case ctrl =>
    simp only [writeHook]
    split
    · exact deviceReset_again _ _
    · exact storeMasked_storeMasked _ _ _ s
  case eerd =>
    simp only [writeHook_eerd]
    split
    · exact setEerdDone_again (storeMasked_holdsStore rfl wv be s) _
    · exact storeMasked_storeMasked _ _ _ s
  case mdic =>
    simp only [writeHook]
    split
    · exact runMdi_again (storeMasked_holdsStore rfl wv be s) rfl
    · exact storeMasked_storeMasked _ _ _ s
  case icr =>
    simp only [storeMasked_of_wmask_zero (r := .icr) rfl]
    exact evaluate_update_again s .icr (· &&& ~~~wv) rfl fun v => by rw [BitVec.and_assoc, BitVec.and_self]
  case ics =>
    simp only [storeMasked_of_wmask_zero (r := .ics) rfl]
    exact raiseCause_raiseCause wv s
  case ims =>
    simp only [storeMasked_of_wmask_zero (r := .ims) rfl]
    exact evaluate_update_again s .ims (· ||| wv) rfl fun v => by rw [BitVec.or_assoc, BitVec.or_self]
  case imc =>
    simp only [storeMasked_of_wmask_zero (r := .imc) rfl]
    exact evaluate_update_again s .ims (· &&& ~~~wv) rfl fun v => by rw [BitVec.and_assoc, BitVec.and_self]
  case tdt =>
    have hreg := txDrain_reg_other (storeMasked .tdt wv be s) .tdt (by decide) (by decide)
    have hstore : storeMasked .tdt wv be (txDrain (storeMasked .tdt wv be s)) = txDrain (storeMasked .tdt wv be s) :=
      storeMasked_of_holdsStore (by rw [hreg]; exact storeMasked_holdsStore rfl wv be s)
    simp only [writeHook]
    rw [hstore, txDrain_txDrain]
  all_goals exact storeMasked_storeMasked _ _ _ s

/-- Settles O14: a register's masked store and hook, done again, find nothing to change. -/
theorem repeatedWriteChangesNothing : Obligations.RepeatedWriteChangesNothing := by
  intro s r wv be
  refine ⟨writeHook wv be r (storeMasked r wv be s), exec_wrInstr wv be r s, ?_⟩
  rw [exec_wrInstr, writeHook_again]

end Sys2Proof.Machine
end

section
/-! SUPPORT. How the encodings of accesses, commands and descriptors are read back, and the proofs of the statements about
them (30_encoding.md). -/

namespace Sys2Proof.Machine

/-! ### Fields of a concatenation -/

/-- A field from bit 0 that reaches over the lowest byte holds the whole of it. -/
theorem extractLsb'_append_byte {v : Nat} (x : BitVec v) (b : Byte) (n : Nat) :
    (x ++ b).extractLsb' 0 (n + 8) = x.extractLsb' 0 n ++ b := by
  refine BitVec.eq_of_getLsbD_eq fun i hi => ?_
  simp only [BitVec.getLsbD_extractLsb', BitVec.getLsbD_append, Nat.zero_add, hi, decide_true, Bool.true_and]
  by_cases hlow : i < 8
  · rw [if_pos hlow, if_pos hlow]
  · rw [if_neg hlow, if_neg hlow, decide_eq_true (by omega), Bool.true_and]

theorem getLsbD_flagBit (b : Bool) : (flagBit b).getLsbD 0 = b := by cases b <;> rfl

theorem getLsbD_cmdByte (b7 b6 b5 b4 b3 b2 b1 b0 : Bool) :
    let c := cmdByte b7 b6 b5 b4 b3 b2 b1 b0
    c.getLsbD 0 = b0 ∧ c.getLsbD 1 = b1 ∧ c.getLsbD 2 = b2 ∧ c.getLsbD 3 = b3 ∧ c.getLsbD 4 = b4 ∧ c.getLsbD 5 = b5 ∧
      c.getLsbD 6 = b6 ∧ c.getLsbD 7 = b7 := by
  simp only [cmdByte, BitVec.getLsbD_append, Nat.reduceLT, Nat.reduceSub, ↓reduceIte, getLsbD_flagBit, and_self]

/-! ### The bytes of a descriptor -/

/-- The first byte of a sequence is the lowest of its value (30_encoding.md R99). -/
theorem ofNat_leNat_cons (w : Nat) (b : Byte) (bs : List Byte) :
    BitVec.ofNat (w + 8) (leNat (b :: bs)) = BitVec.ofNat w (leNat bs) ++ b := by
  refine BitVec.eq_of_getLsbD_eq fun i hi => ?_
  have hval : leNat (b :: bs) = 2 ^ 8 * leNat bs + b.toNat := Nat.add_comm _ _
  rw [BitVec.getLsbD_append, BitVec.getLsbD_ofNat, hval, Nat.testBit_two_pow_mul_add _ b.isLt, decide_eq_true hi,
    Bool.true_and]
  by_cases hlow : i < 8
  · rw [if_pos hlow, if_pos hlow]; rfl
  · rw [if_neg hlow, if_neg hlow, BitVec.getLsbD_ofNat, decide_eq_true (by omega), Bool.true_and]

theorem descInt_eq_append (b0 b1 b2 b3 b4 b5 b6 b7 b8 b9 b10 b11 b12 b13 b14 b15 : Byte) :
    descInt [b0, b1, b2, b3, b4, b5, b6, b7, b8, b9, b10, b11, b12, b13, b14, b15] =
      b15 ++ b14 ++ b13 ++ b12 ++ b11 ++ b10 ++ b9 ++ b8 ++ b7 ++ b6 ++ b5 ++ b4 ++ b3 ++ b2 ++ b1 ++ b0 := by
  simp only [descInt, ofNat_leNat_cons]
  rw [BitVec.of_length_zero (x := BitVec.ofNat 0 (leNat [])), BitVec.zero_width_append]
  rfl

theorem leBytes_length (n v : Nat) : (leBytes n v).length = n := by
  induction n generalizing v with
  | zero => rfl
  | succ n ih => rw [leBytes, List.length_cons, ih]

theorem leNat_leBytes (n v : Nat) : leNat (leBytes n v) = v % 256 ^ n := by
  induction n generalizing v with
  | zero => rw [leBytes, leNat, Nat.pow_zero, Nat.mod_one]
  | succ n ih => rw [leBytes, leNat, ih, Nat.pow_succ', Nat.mod_mul, BitVec.toNat_ofNat]

theorem descBytes_length (D : BitVec 128) : (descBytes D).length = Config.descSize := leBytes_length _ _

theorem descInt_descBytes (D : BitVec 128) : descInt (descBytes D) = D := by
  have hfit : D.toNat % 256 ^ Config.descSize = D.toNat := Nat.mod_eq_of_lt D.isLt
  rw [descInt, descBytes, leNat_leBytes, hfit, BitVec.ofNat_toNat, BitVec.setWidth_eq]

theorem decode_txdesc {bs : List Byte} (h : bs.length = Config.descSize) :
    decode (.txdesc bs) = .ok [txdInstr (decodeTxd (descInt bs))] := if_pos h

theorem decode_rxdesc {bs : List Byte} (h : bs.length = Config.descSize) :
    decode (.rxdesc bs) = .ok [.rxd (decodeRxd (descInt bs))] := if_pos h

/-! ### The layouts -/

/-- A reserved DTYP is neither CONTEXT's nor DATA's (30_encoding.md R99). -/
theorem reserved_dtyp_ne {t : BitVec 4} (h : 2 ≤ t.toNat) : t ≠ 0#4 ∧ t ≠ 1#4 := by
  constructor <;> rintro rfl <;> exact absurd h (by decide)

/-- Settles O4: the descriptor integer is the concatenation of its bytes, byte 15 first, so every field is read off byte by
byte; the kind then chooses among the layouts. -/
theorem descriptorLayouts : Obligations.DescriptorLayouts := by
  intro b0 b1 b2 b3 b4 b5 b6 b7 b8 b9 b10 b11 b12 b13 b14 b15
  rw [decode_txdesc rfl, decode_rxdesc rfl, descInt_eq_append]
  simp (disch := omega) only [decodeTxd, decodeRxd, BitVec.getLsbD_append, BitVec.extractLsb'_append_eq_of_le,
    BitVec.extractLsb'_append_eq_of_add_le, extractLsb'_append_byte, BitVec.extractLsb'_eq_self, Nat.reduceLT,
    Nat.reduceSub, ↓reduceIte]
  refine ⟨fun hdext => ?_, fun hdext hdtyp => ?_, fun hdext hdtyp => ?_, fun hdext hdtyp => ?_, trivial⟩
  · rw [if_neg (by rw [hdext]; decide)]; rfl
  · rw [if_pos hdext, if_pos hdtyp]; rfl
  · rw [if_pos hdext, if_neg (by rw [hdtyp]; decide), if_pos hdtyp]; rfl
  · obtain ⟨hne0, hne1⟩ := reserved_dtyp_ne hdtyp
    rw [if_pos hdext, if_neg hne0, if_neg hne1]; rfl

/-- Bits 93 and 87:84 of the descriptor integer (30_encoding.md R99). -/
theorem descInt_kind_bits (b0 b1 b2 b3 b4 b5 b6 b7 b8 b9 b10 b11 b12 b13 b14 b15 : Byte) :
    let D := descInt [b0, b1, b2, b3, b4, b5, b6, b7, b8, b9, b10, b11, b12, b13, b14, b15]
    D.getLsbD 93 = b11.getLsbD 5 ∧ D.extractLsb' 84 4 = b10.extractLsb' 4 4 := by
  simp (disch := omega) only [descInt_eq_append, BitVec.getLsbD_append, BitVec.extractLsb'_append_eq_of_le,
    BitVec.extractLsb'_append_eq_of_add_le, Nat.reduceLT, Nat.reduceSub, ↓reduceIte, and_self]

/-- Settles O3: the four kinds are the four transmit layouts of `descriptorLayouts`, on the 16 bytes of the descriptor. -/
theorem transmitDescriptorKinds : Obligations.TransmitDescriptorKinds := by
  intro d hlen
  match d, hlen with
  | [b0, b1, b2, b3, b4, b5, b6, b7, b8, b9, b10, b11, b12, b13, b14, b15], _ =>
    obtain ⟨hbit, hnibble⟩ := descInt_kind_bits b0 b1 b2 b3 b4 b5 b6 b7 b8 b9 b10 b11 b12 b13 b14 b15
    obtain ⟨hlegacy, hcontext, hdata, hreserved, -⟩ :=
      descriptorLayouts b0 b1 b2 b3 b4 b5 b6 b7 b8 b9 b10 b11 b12 b13 b14 b15
    exact ⟨hbit, hnibble, fun hdext => ⟨_, hlegacy hdext⟩, fun hdext hdtyp => ⟨_, hcontext hdext hdtyp⟩,
      fun hdext hdtyp => ⟨_, hdata hdext hdtyp⟩, fun hdext hdtyp => ⟨_, hreserved hdext hdtyp⟩⟩

/-- Every field of a transmit descriptor is read back from its encoding; of a reserved kind, DTYP must not be that of a
kind with a layout. -/
theorem decodeTxd_encodeTxd (d : TxDesc) (h : (txdInstr d).wf = true) : decodeTxd (encodeTxd d) = d := by
  cases d
  all_goals
    simp (disch := omega) only [decodeTxd, encodeTxd, getLsbD_cmdByte, BitVec.getLsbD_append,
      BitVec.extractLsb'_append_eq_of_le, BitVec.extractLsb'_append_eq_of_add_le, BitVec.extractLsb'_eq_self,
      Nat.reduceLT, Nat.reduceSub, ↓reduceIte, Bool.false_eq_true]
  case data => rfl
  case reserved d =>
    obtain ⟨hne0, hne1⟩ := reserved_dtyp_ne (of_decide_eq_true h)
    rw [if_neg hne0, if_neg hne1]

theorem decodeRxd_encodeRxd (d : RxDesc) : decodeRxd (encodeRxd d) = d := by
  simp (disch := omega) only [decodeRxd, encodeRxd, BitVec.extractLsb'_append_eq_of_le,
    BitVec.extractLsb'_append_eq_of_add_le, BitVec.extractLsb'_eq_self, Nat.reduceSub]

theorem decode_descBytes_encodeTxd (d : TxDesc) (h : (txdInstr d).wf = true) :
    decode (.txdesc (descBytes (encodeTxd d))) = .ok [txdInstr d] := by
  rw [decode_txdesc (descBytes_length _), descInt_descBytes, decodeTxd_encodeTxd d h]

theorem decode_descBytes_encodeRxd (d : RxDesc) : decode (.rxdesc (descBytes (encodeRxd d))) = .ok [.rxd d] := by
  rw [decode_rxdesc (descBytes_length _), descInt_descBytes, decodeRxd_encodeRxd]

/-! ### Normalisation -/

theorem normalise_width_one {acc : Access} (h : acc.width = 1) :
    normalise acc =
      [⟨acc.off / 4 * 4, ((acc.wdata.setWidth 8).setWidth 32) <<< (8 * (acc.off % 4)), 0b0001#4 <<< (acc.off % 4)⟩] := by
  rw [normalise, if_pos h, show acc.off - acc.off % 4 = acc.off / 4 * 4 by omega]

theorem normalise_width_two {acc : Access} (h : acc.width = 2) :
    normalise acc =
      [⟨acc.off / 4 * 4, ((acc.wdata.setWidth 16).setWidth 32) <<< (8 * (acc.off % 4)), 0b0011#4 <<< (acc.off % 4)⟩] := by
  rw [normalise, if_neg (by omega), if_pos h, show acc.off - acc.off % 4 = acc.off / 4 * 4 by omega]

theorem normalise_width_four {acc : Access} (h : acc.width = 4) :
    normalise acc = [⟨acc.off, acc.wdata.extractLsb' 0 32, 0b1111#4⟩] := by
  rw [normalise, if_neg (by omega), if_neg (by omega), if_pos h]

theorem normalise_width_eight {acc : Access} (h : acc.width = 8) :
    normalise acc =
      [⟨acc.off, acc.wdata.extractLsb' 0 32, 0b1111#4⟩, ⟨acc.off + 4, acc.wdata.extractLsb' 32 32, 0b1111#4⟩] := by
  rw [normalise, if_neg (by omega), if_neg (by omega), if_neg (by omega)]

theorem decodeAccess_legal {acc : Access} (h : checkAccess acc.off acc.width = none) :
    decodeAccess acc = (normalise acc).map (dwordInstr acc.dir) := by
  rw [decodeAccess, h]

/-- Moving the low `m` bits of a value up by `k` loses none of them while they stay inside the word. -/
theorem toNat_setWidth_shiftLeft (v : BitVec 64) (m k : Nat) (h : m + k ≤ 32) :
    (((v.setWidth m).setWidth 32) <<< k).toNat = v.toNat % 2 ^ m * 2 ^ k := by
  have hlow : v.toNat % 2 ^ m < 2 ^ m := Nat.mod_lt _ (Nat.two_pow_pos m)
  have hfit : v.toNat % 2 ^ m * 2 ^ k < 2 ^ 32 :=
    calc v.toNat % 2 ^ m * 2 ^ k < 2 ^ m * 2 ^ k := Nat.mul_lt_mul_of_pos_right hlow (Nat.two_pow_pos k)
      _ = 2 ^ (m + k) := (Nat.pow_add 2 m k).symm
      _ ≤ 2 ^ 32 := Nat.pow_le_pow_right two_pos h
  have hword : v.toNat % 2 ^ m < 2 ^ 32 := (Nat.le_mul_of_pos_right _ (Nat.two_pow_pos k)).trans_lt hfit
  rw [BitVec.toNat_shiftLeft, BitVec.toNat_setWidth, BitVec.toNat_setWidth, Nat.mod_eq_of_lt hword, Nat.shiftLeft_eq,
    Nat.mod_eq_of_lt hfit]

theorem toNat_extractLsb'_high (v : BitVec 64) : (v.extractLsb' 32 32).toNat = v.toNat / 2 ^ 32 := by
  rw [BitVec.extractLsb'_toNat, Nat.shiftRight_eq_div_pow]
  exact Nat.mod_eq_of_lt (by omega)

/-- Settles O5, by the four legal widths. -/
theorem accessesAreNormalised : Obligations.AccessesAreNormalised := by
  intro acc h
  obtain ⟨-, -, halign⟩ := (checkAccess_eq_none _ _).mp h
  rw [decodeAccess_legal h]
  refine ⟨fun hw => ?_, fun hw => ?_, fun hw => ?_, fun hw => ?_⟩
  · have hl : acc.off % 4 < 4 := Nat.mod_lt _ (by decide)
    rw [normalise_width_one hw]
    refine ⟨_, _, rfl, toNat_setWidth_shiftLeft _ _ _ (by omega), ?_⟩
    interval_cases acc.off % 4 <;> rfl
  · rw [hw] at halign
    have hl : acc.off % 4 = 0 ∨ acc.off % 4 = 2 := by omega
    rw [normalise_width_two hw]
    refine ⟨_, _, rfl, toNat_setWidth_shiftLeft _ _ _ (by omega), ?_, hl⟩
    rcases hl with hl | hl <;> rw [hl] <;> rfl
  · rw [normalise_width_four hw]
    exact ⟨_, rfl, BitVec.extractLsb'_toNat _ _ _⟩
  · rw [normalise_width_eight hw]
    exact ⟨_, _, rfl, BitVec.extractLsb'_toNat _ _ _, toNat_extractLsb'_high _⟩

/-! ### Access words -/

/-- The fields of an access word (30_encoding.md R90). -/
theorem accessWord_fields (dir : Dir) (sz : BitVec 2) (off : BitVec 24) :
    (accessWord dir sz off).getLsbD 31 = (dir == .write) ∧ (accessWord dir sz off).extractLsb' 26 5 = 0#5 ∧
      (accessWord dir sz off).extractLsb' 24 2 = sz ∧ (accessWord dir sz off).extractLsb' 0 24 = off := by
  simp (disch := omega) only [accessWord, getLsbD_flagBit, BitVec.getLsbD_append, BitVec.extractLsb'_append_eq_of_le,
    BitVec.extractLsb'_append_eq_of_add_le, BitVec.extractLsb'_eq_self, Nat.reduceLT, Nat.reduceSub, ↓reduceIte,
    and_self]

theorem accessOfWord_accessWord (dir : Dir) (sz : BitVec 2) (off : BitVec 24) (wdata : BitVec 64) :
    accessOfWord (accessWord dir sz off) wdata = .ok ⟨dir, off.toNat, widthOfSz sz, wdata⟩ := by
  obtain ⟨hdir, hreserved, hsz, hoff⟩ := accessWord_fields dir sz off
  rw [accessOfWord, if_pos hreserved, hdir, hsz, hoff]
  cases dir <;> rfl

/-- The access word of a legal access decodes to the access's dword operations. -/
theorem decode_accessWord {dir : Dir} {sz : BitVec 2} {off : Nat} (wdata : BitVec 64)
    (h : checkAccess off (widthOfSz sz) = none) :
    decode (.aw (accessWord dir sz (BitVec.ofNat 24 off)) wdata) =
      .ok ((normalise ⟨dir, off, widthOfSz sz, wdata⟩).map (dwordInstr dir)) := by
  obtain ⟨-, hend, -⟩ := (checkAccess_eq_none _ _).mp h
  have hoff : (BitVec.ofNat 24 off).toNat = off := Nat.mod_eq_of_lt (by rw [Config.mmioSize] at hend; omega)
  rw [decode, accessOfWord_accessWord, hoff, Except.map, decodeAccess_legal h]

/-! ### Byte enables and lanes -/

/-- Bit `i` of a word is enabled exactly if its byte is (30_encoding.md R93). -/
theorem getLsbD_byteMask (be : BitVec 4) (i : Nat) : (byteMask be).getLsbD i = be.getLsbD (i / 8) := by
  have hbyte (b : Bool) (j : Nat) : (if b then 0xFF#8 else 0#8).getLsbD j = (decide (j < 8) && b) := by
    cases b
    · simp
    · exact BitVec.getLsbD_allOnes.trans (Bool.and_true _).symm
  simp only [byteMask, BitVec.getLsbD_append, hbyte]
  split_ifs with h0 h1 h2
  · rw [show i / 8 = 0 by omega, decide_eq_true h0, Bool.true_and]
  · rw [show i / 8 = 1 by omega, decide_eq_true h1, Bool.true_and]
  · rw [show i / 8 = 2 by omega, decide_eq_true h2, Bool.true_and]
  · by_cases h3 : i < 32
    · rw [show i / 8 = 3 by omega, decide_eq_true (by omega), Bool.true_and]
    · rw [decide_eq_false (by omega), Bool.false_and, BitVec.getLsbD_of_ge be _ (by omega)]

/-- The byte enables that have a lane are those of the table, row by row (30_encoding.md R92). -/
theorem laneOf_eq_some {be : BitVec 4} {n l : Nat} (h : laneOf be = some (n, l)) :
    (n = 1 ∧ l < 4 ∧ be = 0b0001#4 <<< l) ∨ (n = 2 ∧ l % 2 = 0 ∧ l < 4 ∧ be = 0b0011#4 <<< l) ∨
      (n = 4 ∧ l = 0 ∧ be = 0b1111#4) := by
  unfold laneOf at h
  split_ifs at h
  all_goals
    cases h
    subst be
    decide

/-- Byte enables with a lane enable that lane's bytes only. -/
theorem lane_of_enabled {be : BitVec 4} {n l j : Nat} (h : laneOf be = some (n, l)) (hj : be.getLsbD j = true) :
    l ≤ j ∧ j < l + n := by
  have hj4 : j < 4 := BitVec.lt_of_getLsbD hj
  unfold laneOf at h
  split_ifs at h
  all_goals
    cases h
    subst be
    revert hj
    interval_cases j <;> decide

/-- A well-formed write has a lane, and no bit of a disabled byte. -/
theorem wfWrite_iff (wv : Word) (be : BitVec 4) :
    wfWrite wv be = true ↔
      (∃ n l, laneOf be = some (n, l)) ∧ ∀ i, wv.getLsbD i = true → be.getLsbD (i / 8) = true := by
  rw [wfWrite, Bool.and_eq_true, beq_iff_eq, Option.isSome_iff_exists, Prod.exists]
  refine and_congr_right fun _ => ?_
  rw [← BitsIn, bitsIn_iff]
  simp only [getLsbD_byteMask]

/-- A value whose bits all lie in the `n` bytes from lane `l` on is given back by taking these bytes and moving them to the
lane again. -/
theorem shiftLeft_lane_of_bits {wv : Word} {l n : Nat}
    (h : ∀ i, wv.getLsbD i = true → 8 * l ≤ i ∧ i < 8 * l + 8 * n) :
    ((((wv >>> (8 * l)).setWidth 64).setWidth (8 * n)).setWidth 32) <<< (8 * l) = wv := by
  refine BitVec.eq_of_getLsbD_eq fun i hi => ?_
  simp only [BitVec.getLsbD_shiftLeft, BitVec.getLsbD_setWidth, BitVec.getLsbD_ushiftRight]
  cases hb : wv.getLsbD i with
  | true =>
    obtain ⟨hlo, hhi⟩ := h i hb
    simp [hi, hlo, hb, show i - 8 * l < 32 by omega, show i - 8 * l < 8 * n by omega, show i - 8 * l < 64 by omega,
      show 8 * l + (i - 8 * l) = i by omega]
  | false =>
    by_cases hlo : i < 8 * l
    · simp [hlo]
    · simp [hlo, hb, show 8 * l + (i - 8 * l) = i by omega]

theorem shiftLeft_lane_of_wfWrite {wv : Word} {be : BitVec 4} {n l : Nat} (hwf : wfWrite wv be = true)
    (hlane : laneOf be = some (n, l)) :
    ((((wv >>> (8 * l)).setWidth 64).setWidth (8 * n)).setWidth 32) <<< (8 * l) = wv := by
  obtain ⟨-, hbits⟩ := (wfWrite_iff wv be).mp hwf
  refine shiftLeft_lane_of_bits fun i hi => ?_
  have hbyte : l ≤ i / 8 ∧ i / 8 < l + n := lane_of_enabled hlane (hbits i hi)
  omega

theorem encodeWrite_lane_one {be : BitVec 4} {l : Nat} (h : laneOf be = some (1, l)) (off : Nat) (wv : Word) :
    encodeWrite off wv be =
      .aw (accessWord .write 0#2 (BitVec.ofNat 24 (off + l))) ((wv >>> (8 * l)).setWidth 64) := by
  simp only [encodeWrite, h]

theorem encodeWrite_lane_two {be : BitVec 4} {l : Nat} (h : laneOf be = some (2, l)) (off : Nat) (wv : Word) :
    encodeWrite off wv be =
      .aw (accessWord .write 1#2 (BitVec.ofNat 24 (off + l))) ((wv >>> (8 * l)).setWidth 64) := by
  simp only [encodeWrite, h]

theorem encodeWrite_lane_four {be : BitVec 4} {l : Nat} (h : laneOf be = some (4, l)) (off : Nat) (wv : Word) :
    encodeWrite off wv be = .aw (accessWord .write 2#2 (BitVec.ofNat 24 off)) (wv.setWidth 64) := by
  simp only [encodeWrite, h]

/-! ### Dword operations, encoded and decoded -/

theorem decode_encodeRead {a : Nat} (ha : a % 4 = 0) (hend : a + 4 ≤ Config.mmioSize) :
    decode (encodeRead a) = .ok [dwordInstr .read ⟨a, 0#32, 0b1111#4⟩] := by
  have hcheck : checkAccess a (widthOfSz 2#2) = none := (checkAccess_eq_none _ _).mpr ⟨by decide, hend, ha⟩
  rw [encodeRead, decode_accessWord _ hcheck, normalise_width_four rfl]
  rfl

/-- The access a dword write is encoded as normalises to that write: its offset and its value leave the dword for the lane
and come back. -/
theorem decode_encodeWrite {a : Nat} {wv : Word} {be : BitVec 4} (ha : a % 4 = 0) (hend : a + 4 ≤ Config.mmioSize)
    (hwf : wfWrite wv be = true) : decode (encodeWrite a wv be) = .ok [dwordInstr .write ⟨a, wv, be⟩] := by
  obtain ⟨⟨n, l, hlane⟩, -⟩ := (wfWrite_iff wv be).mp hwf
  have hvalue := shiftLeft_lane_of_wfWrite hwf hlane
  rcases laneOf_eq_some hlane with ⟨rfl, hl, rfl⟩ | ⟨rfl, heven, hl, rfl⟩ | ⟨rfl, rfl, rfl⟩
  · have hcheck : checkAccess (a + l) (widthOfSz 0#2) = none :=
      (checkAccess_eq_none _ _).mpr ⟨by decide, show a + l + 1 ≤ _ by omega, Nat.mod_one _⟩
    rw [encodeWrite_lane_one hlane, decode_accessWord _ hcheck, normalise_width_one rfl, List.map_singleton,
      show (a + l) / 4 * 4 = a by omega, show (a + l) % 4 = l by omega, hvalue]
  · have hcheck : checkAccess (a + l) (widthOfSz 1#2) = none :=
      (checkAccess_eq_none _ _).mpr ⟨by decide, show a + l + 2 ≤ _ by omega, show (a + l) % 2 = 0 by omega⟩
    rw [encodeWrite_lane_two hlane, decode_accessWord _ hcheck, normalise_width_two rfl, List.map_singleton,
      show (a + l) / 4 * 4 = a by omega, show (a + l) % 4 = l by omega, hvalue]
  · have hcheck : checkAccess a (widthOfSz 2#2) = none := (checkAccess_eq_none _ _).mpr ⟨by decide, hend, ha⟩
    rw [encodeWrite_lane_four hlane, decode_accessWord _ hcheck, normalise_width_four rfl, List.map_singleton,
      BitVec.extractLsb'_setWidth_of_le (by decide), BitVec.extractLsb'_eq_self]

theorem regAt_offset (r : Reg) : regAt r.offset = some r := by cases r <;> rfl

theorem offset_aligned (r : Reg) : r.offset % 4 = 0 := by cases r <;> rfl

theorem offset_in_region (r : Reg) : r.offset + 4 ≤ Config.mmioSize := by cases r <;> decide

/-- A dword operation at a register's offset is the register's read or write (30_encoding.md R95). -/
theorem dwordInstr_of_register {o : DwordOp} {r : Reg} (h : regAt o.a = some r) :
    dwordInstr .read o = rdInstr r ∧ dwordInstr .write o = wrInstr o.wv o.be r := by
  simp only [dwordInstr, h, and_self]

/-- A dword operation at an offset that is no register's keeps the offset (40_dispatcher.md R136). -/
theorem dwordInstr_of_unmapped {o : DwordOp} (h : regAt o.a = none) :
    dwordInstr .read o = .rdUnmapped (BitVec.ofNat 24 o.a) ∧
      dwordInstr .write o = .wrUnmapped (BitVec.ofNat 24 o.a) o.wv o.be := by
  simp only [dwordInstr, h, and_self]

theorem decode_read_register (r : Reg) : decode (encodeRead r.offset) = .ok [rdInstr r] := by
  obtain ⟨hread, -⟩ := dwordInstr_of_register (o := ⟨r.offset, 0#32, 0b1111#4⟩) (regAt_offset r)
  rw [decode_encodeRead (offset_aligned r) (offset_in_region r), hread]

theorem decode_write_register (r : Reg) {wv : Word} {be : BitVec 4} (h : wfWrite wv be = true) :
    decode (encodeWrite r.offset wv be) = .ok [wrInstr wv be r] := by
  obtain ⟨-, hwrite⟩ := dwordInstr_of_register (o := ⟨r.offset, wv, be⟩) (regAt_offset r)
  rw [decode_encodeWrite (offset_aligned r) (offset_in_region r) h, hwrite]

theorem wfUnmapped_iff (a : BitVec 24) :
    wfUnmapped a = true ↔ a.toNat % 4 = 0 ∧ a.toNat + 4 ≤ Config.mmioSize ∧ regAt a.toNat = none := by
  rw [wfUnmapped, Bool.and_eq_true, Bool.and_eq_true, beq_iff_eq, decide_eq_true_eq, Option.isNone_iff_eq_none,
    and_assoc]

theorem decode_read_unmapped {a : BitVec 24} (h : wfUnmapped a = true) :
    decode (encodeRead a.toNat) = .ok [.rdUnmapped a] := by
  obtain ⟨ha, hend, hnone⟩ := (wfUnmapped_iff a).mp h
  obtain ⟨hread, -⟩ := dwordInstr_of_unmapped (o := ⟨a.toNat, 0#32, 0b1111#4⟩) hnone
  rw [decode_encodeRead ha hend, hread, BitVec.ofNat_toNat, BitVec.setWidth_eq]

theorem decode_write_unmapped {a : BitVec 24} {wv : Word} {be : BitVec 4} (h : wfUnmapped a = true)
    (hw : wfWrite wv be = true) : decode (encodeWrite a.toNat wv be) = .ok [.wrUnmapped a wv be] := by
  obtain ⟨ha, hend, hnone⟩ := (wfUnmapped_iff a).mp h
  obtain ⟨-, hwrite⟩ := dwordInstr_of_unmapped (o := ⟨a.toNat, wv, be⟩) hnone
  rw [decode_encodeWrite ha hend hw, hwrite, BitVec.ofNat_toNat, BitVec.setWidth_eq]

theorem decode_failing_access {c : AccessCause} {acc : Access} (h : checkAccess acc.off acc.width = some c) :
    decode (.access acc) = .ok [.accessFault c acc] := by
  rw [decode, decodeAccess, h]

/-! ### Commands, encoded and decoded -/

/-- The decoder tells the command apart by the PHYADD and the OP it was encoded with. -/
theorem decodeMdi_encodeMdi (op : BitVec 2) (pa : BitVec 5) (c : MdiFields) :
    decodeMdi (encodeMdi op pa c) =
      if pa ≠ Config.phyAddr then .reserved op pa c
      else if op = 0b10#2 then .read c
      else if op = 0b01#2 then .write c
      else .reserved op pa c := by
  simp (disch := omega) only [decodeMdi_eq, mdiFields, encodeMdi, getLsbD_flagBit, BitVec.getLsbD_append,
    BitVec.extractLsb'_append_eq_of_le, BitVec.extractLsb'_append_eq_of_add_le, BitVec.extractLsb'_eq_self,
    Nat.reduceLT, Nat.reduceSub, ↓reduceIte]

theorem decodeMdi_mdiCommandWord (cmd : MdiCmd) (h : (mdiInstr cmd).wf = true) :
    decodeMdi (mdiCommandWord cmd) = cmd := by
  cases cmd with
  | read c => exact decodeMdi_encodeMdi _ _ c
  | write c => exact decodeMdi_encodeMdi _ _ c
  | reserved op pa c =>
    rw [mdiCommandWord, decodeMdi_encodeMdi]
    split_ifs with hpa hread hwrite
    · rfl
    · rw [not_not.mp hpa, hread] at h; cases h
    · rw [not_not.mp hpa, hwrite] at h; cases h
    · rfl

theorem decode_mdiCommandWord (cmd : MdiCmd) (h : (mdiInstr cmd).wf = true) :
    decode (.mdicmd (mdiCommandWord cmd)) = .ok [mdiInstr cmd] := by
  rw [decode, decodeMdi_mdiCommandWord cmd h]

theorem decode_eerd_command (adr : Byte) (data : BitVec 16) :
    decode (.eecmd (data ++ adr ++ 0x01#8)) = .ok [.eerdStart adr data] := by
  simp (disch := omega) only [decode, BitVec.getLsbD_append, BitVec.extractLsb'_append_eq_of_le,
    BitVec.extractLsb'_append_eq_of_add_le, BitVec.extractLsb'_eq_self, Nat.reduceLT, Nat.reduceSub, ↓reduceIte]
  rfl

/-! ### Every operation -/

/-- Settles O1, format by format. The offset in a register operation's encoding says which register's lemma applies. -/
theorem decodeEncodeRoundTrip : Obligations.DecodeEncodeRoundTrip
  | .rdCtrl, _ | .rdStatus, _ | .rdEerd, _ | .rdMdic, _ | .rdIcr, _ | .rdItr, _ | .rdIcs, _ | .rdIms, _ | .rdImc, _
  | .rdRctl, _ | .rdTctl, _ | .rdRdbal, _ | .rdRdbah, _ | .rdRdlen, _ | .rdRdh, _ | .rdRdt, _ | .rdTdbal, _
  | .rdTdbah, _ | .rdTdlen, _ | .rdTdh, _ | .rdTdt, _ | .rdRxcsum, _ => decode_read_register _
  | .wrCtrl _ _, h | .wrStatus _ _, h | .wrEerd _ _, h | .wrMdic _ _, h | .wrIcr _ _, h | .wrItr _ _, h
  | .wrIcs _ _, h | .wrIms _ _, h | .wrImc _ _, h | .wrRctl _ _, h | .wrTctl _ _, h | .wrRdbal _ _, h
  | .wrRdbah _ _, h | .wrRdlen _ _, h | .wrRdh _ _, h | .wrRdt _ _, h | .wrTdbal _ _, h | .wrTdbah _ _, h
  | .wrTdlen _ _, h | .wrTdh _ _, h | .wrTdt _ _, h | .wrRxcsum _ _, h => decode_write_register _ h
  | .rdUnmapped _, h => decode_read_unmapped h
  | .wrUnmapped _ _ _, h =>
    have ⟨hunmapped, hwrite⟩ := Bool.and_eq_true_iff.mp h
    decode_write_unmapped hunmapped hwrite
  | .accessFault _ _, h => decode_failing_access (eq_of_beq h)
  | .mdicRead c, h => decode_mdiCommandWord (.read c) h
  | .mdicWrite c, h => decode_mdiCommandWord (.write c) h
  | .mdicReserved op pa c, h => decode_mdiCommandWord (.reserved op pa c) h
  | .eerdStart adr data, _ => decode_eerd_command adr data
  | .txdLegacy d, h => decode_descBytes_encodeTxd (.legacy d) h
  | .txdContext d, h => decode_descBytes_encodeTxd (.context d) h
  | .txdData d, h => decode_descBytes_encodeTxd (.data d) h
  | .txdReserved d, h => decode_descBytes_encodeTxd (.reserved d) h
  | .rxd d, _ => decode_descBytes_encodeRxd d
  | .rxFrame _, _ | .timerTick, _ | .resetPoweron, _ => rfl

/-- Settles O2: the access words and commands by evaluation, the descriptors by their layouts. -/
theorem decodeReadsWrittenWords : Obligations.DecodeReadsWrittenWords := by
  obtain ⟨hlegacy, -⟩ := descriptorLayouts 0x00 0x10 0 0 0 0 0 0 0x40 0x00 0x00 0x09 0 0 0 0
  obtain ⟨-, -, -, -, hrxd⟩ := descriptorLayouts 0x00 0x00 0x03 0 0 0 0 0 0 0 0 0 0 0 0 0
  exact ⟨by decide, by decide, by decide, by decide, by decide, by decide, by decide, by decide, hlegacy rfl, hrxd⟩

end Sys2Proof.Machine
end

section
/-! SUPPORT. What the dispatcher makes of each access, read and write: the proofs of the statements about its operations
(40_dispatcher.md). -/

namespace Sys2Proof.Machine

/-! ### The access checks -/

theorem checkAccess_badWidth {width : Nat} (off : Nat) (h : ¬(width = 1 ∨ width = 2 ∨ width = 4 ∨ width = 8)) :
    checkAccess off width = some .badWidth := if_pos h

theorem checkAccess_outOfRange {off width : Nat} (hw : width = 1 ∨ width = 2 ∨ width = 4 ∨ width = 8)
    (h : Config.mmioSize < off + width) : checkAccess off width = some .outOfRange := by
  rw [checkAccess, if_neg (not_not.mpr hw), if_pos h]

theorem checkAccess_misaligned {off width : Nat} (hw : width = 1 ∨ width = 2 ∨ width = 4 ∨ width = 8)
    (hend : off + width ≤ Config.mmioSize) (h : off % width ≠ 0) : checkAccess off width = some .misaligned := by
  rw [checkAccess, if_neg (not_not.mpr hw), if_neg (Nat.not_lt.mpr hend), if_pos h]

theorem decodeAccess_failing {acc : Access} {c : AccessCause} (h : checkAccess acc.off acc.width = some c) :
    decodeAccess acc = [.accessFault c acc] := Except.ok.inj (decode_failing_access h)

/-- A dword operation is a read or a write, of a register or of none. -/
theorem dwordInstr_ne_accessFault (dir : Dir) (o : DwordOp) (c : AccessCause) (acc : Access) :
    dwordInstr dir o ≠ .accessFault c acc := by
  unfold dwordInstr
  split
  case h_1 r _ => cases r <;> exact Instr.noConfusion
  case h_2 r _ => cases r <;> exact Instr.noConfusion
  case h_3 => exact Instr.noConfusion
  case h_4 => exact Instr.noConfusion

/-- An access that passes the checks is dword operations only. -/
theorem accessFault_not_mem_decodeAccess {acc : Access} (h : checkAccess acc.off acc.width = none) (c : AccessCause)
    (a : Access) : .accessFault c a ∉ decodeAccess acc := by
  rw [decodeAccess_legal h]
  intro hmem
  obtain ⟨o, -, ho⟩ := List.mem_map.mp hmem
  exact dwordInstr_ne_accessFault acc.dir o c a ho

/-- Settles O6, check by check. -/
theorem accessChecksInOrder : Obligations.AccessChecksInOrder := by
  intro acc
  refine ⟨fun hw => decodeAccess_failing (checkAccess_badWidth _ hw), fun hw => ⟨fun hend => ?_, fun hend hmis => ?_,
    fun hend halign => ?_⟩⟩
  · exact decodeAccess_failing (checkAccess_outOfRange hw hend)
  · exact decodeAccess_failing (checkAccess_misaligned hw hend hmis)
  · have hnone := (checkAccess_eq_none acc.off acc.width).mpr ⟨hw, hend, halign⟩
    exact ⟨hnone, accessFault_not_mem_decodeAccess hnone⟩

/-! ### The access that fails a check -/

theorem exec_accessFault (c : AccessCause) (acc : Access) (s : State) :
    exec (.accessFault c acc) s =
      .next { s with bus := { reads := [], fault := true }, out := s.out ++ [.raised (.access c)] } := rfl

/-- Settles O7: the operation itself, and the step that runs it from an idle response and answers. -/
theorem faultingAccessChangesNothing : Obligations.FaultingAccessChangesNothing := by
  intro s acc c rest
  exact ⟨exec_accessFault c acc s, step_failing_access⟩

/-! ### Unmapped offsets -/

theorem regAt_eq_none_iff (a : Nat) : regAt a = none ↔ ∀ r ∈ Reg.all, r.offset ≠ a := by
  simp only [regAt, List.find?_eq_none, beq_iff_eq, ne_eq]

theorem decode_dword_access (dir : Dir) {off : Nat} (wdata : BitVec 64) (halign : off % 4 = 0)
    (hend : off + 4 ≤ Config.mmioSize) :
    decode (.access ⟨dir, off, 4, wdata⟩) = .ok [dwordInstr dir ⟨off, wdata.extractLsb' 0 32, 0b1111#4⟩] := by
  have hlegal : checkAccess off 4 = none := (checkAccess_eq_none off 4).mpr ⟨by decide, hend, halign⟩
  rw [decode, decodeAccess_legal hlegal, normalise_width_four rfl, List.map_singleton]

theorem exec_rdUnmapped (a : BitVec 24) (s : State) : exec (.rdUnmapped a) s = .next (yieldRead 0#32 s) := rfl

theorem exec_wrUnmapped (a : BitVec 24) (wv : Word) (be : BitVec 4) (s : State) :
    exec (.wrUnmapped a wv be) s = .next s := rfl

/-- Settles O8: no register is found at the offset, so the one dword operation of the access is the unmapped one. -/
theorem unmappedOffsetsReadZeroAndIgnoreWrites : Obligations.UnmappedOffsetsReadZeroAndIgnoreWrites := by
  intro s off wdata halign hend hunmapped
  obtain ⟨hread, hwrite⟩ := dwordInstr_of_unmapped (o := ⟨off, wdata.extractLsb' 0 32, 0b1111#4⟩)
    ((regAt_eq_none_iff off).mpr hunmapped)
  refine ⟨?_, ?_, fun a wv be => ⟨exec_rdUnmapped a s, exec_wrUnmapped a wv be s⟩⟩
  · rw [decode_dword_access .read wdata halign hend, hread]
  · rw [decode_dword_access .write wdata halign hend, hwrite]

/-! ### Dword reads -/

/-- Only EERD has a computed part (40_dispatcher.md R133). -/
theorem readValue_of_ne_eerd (s : State) {r : Reg} (h : r ≠ .eerd) : readValue s r = s.reg r := by
  cases r
  case eerd => exact absurd rfl h
  all_goals rfl

theorem dwRead_of_ne_eerd (s : State) {r : Reg} (h : r ≠ .eerd) : dwRead s r = s.reg r &&& r.rmask := by
  rw [dwRead, readValue_of_ne_eerd s h]

theorem dwRead_of_full_rmask (s : State) {r : Reg} (h : r.rmask = BitVec.allOnes 32) : dwRead s r = readValue s r := by
  rw [dwRead, h, BitVec.and_allOnes]

theorem dwRead_of_zero_rmask (s : State) {r : Reg} (h : r.rmask = 0#32) : dwRead s r = 0#32 := by
  rw [dwRead, h, BitVec.and_zero]

theorem exec_rdInstr_of_dwRead {s : State} {r : Reg} {v : Word} (h : dwRead s r = v) :
    exec (rdInstr r) s = .next { s with bus := { s.bus with reads := s.bus.reads ++ [v] } } := by
  rw [exec_rdInstr, h, yieldRead]

/-- A read of a register that can be read in full yields its value as it is. -/
theorem exec_rdInstr_of_full_rmask (s : State) {r : Reg} (h : r.rmask = BitVec.allOnes 32) :
    exec (rdInstr r) s = .next { s with bus := { s.bus with reads := s.bus.reads ++ [readValue s r] } } :=
  exec_rdInstr_of_dwRead (dwRead_of_full_rmask s h)

/-- A read of a register with a read mask yields the masked value. -/
theorem exec_rdInstr_of_ne_eerd (s : State) {r : Reg} (h : r ≠ .eerd) :
    exec (rdInstr r) s = .next { s with bus := { s.bus with reads := s.bus.reads ++ [s.reg r &&& r.rmask] } } :=
  exec_rdInstr_of_dwRead (dwRead_of_ne_eerd s h)

/-- Settles O9, register by register in the order of their offsets: those with a full read mask answer their value, ICS
and IMC 0, the others the masked value. -/
theorem dwordReads : Obligations.DwordReads := by
  intro s
  exact
    ⟨exec_rdInstr_of_full_rmask s (r := .ctrl) rfl,
      exec_rdInstr_of_full_rmask s (r := .status) rfl,
      exec_rdInstr_of_full_rmask s (r := .eerd) rfl,
      exec_rdInstr_of_full_rmask s (r := .mdic) rfl,
      exec_rdInstr_of_full_rmask s (r := .icr) rfl,
      exec_rdInstr_of_ne_eerd s (r := .itr) (by decide),
      exec_rdInstr_of_dwRead (dwRead_of_zero_rmask s (r := .ics) rfl),
      exec_rdInstr_of_full_rmask s (r := .ims) rfl,
      exec_rdInstr_of_dwRead (dwRead_of_zero_rmask s (r := .imc) rfl),
      exec_rdInstr_of_full_rmask s (r := .rctl) rfl,
      exec_rdInstr_of_full_rmask s (r := .tctl) rfl,
      exec_rdInstr_of_full_rmask s (r := .rdbal) rfl,
      exec_rdInstr_of_full_rmask s (r := .rdbah) rfl,
      exec_rdInstr_of_full_rmask s (r := .rdlen) rfl,
      exec_rdInstr_of_ne_eerd s (r := .rdh) (by decide),
      exec_rdInstr_of_ne_eerd s (r := .rdt) (by decide),
      exec_rdInstr_of_full_rmask s (r := .tdbal) rfl,
      exec_rdInstr_of_full_rmask s (r := .tdbah) rfl,
      exec_rdInstr_of_full_rmask s (r := .tdlen) rfl,
      exec_rdInstr_of_ne_eerd s (r := .tdh) (by decide),
      exec_rdInstr_of_ne_eerd s (r := .tdt) (by decide),
      exec_rdInstr_of_ne_eerd s (r := .rxcsum) (by decide)⟩

/-! ### Dword writes -/

/-- A write of a register without a hook is its masked store (40_dispatcher.md R134). -/
theorem exec_wrInstr_of_no_hook (s : State) (wv : Word) (be : BitVec 4) {r : Reg}
    (h : ∀ u, writeHook wv be r u = u) :
    exec (wrInstr wv be r) s = .next (s.setReg r (storedValue (s.reg r) r.wmask wv be)) := by
  rw [exec_wrInstr, h, storeMasked_eq_setReg]

/-- Settles O11: the byte mask bit by bit, then the eleven registers that have no hook. -/
theorem storeOnlyWrites : Obligations.StoreOnlyWrites := by
  refine ⟨fun be k _ => getLsbD_byteMask be k, fun s wv be => ?_⟩
  exact
    ⟨exec_wrInstr_of_no_hook s wv be (r := .rctl) fun _ => rfl,
      exec_wrInstr_of_no_hook s wv be (r := .tctl) fun _ => rfl,
      exec_wrInstr_of_no_hook s wv be (r := .rxcsum) fun _ => rfl,
      exec_wrInstr_of_no_hook s wv be (r := .rdbal) fun _ => rfl,
      exec_wrInstr_of_no_hook s wv be (r := .rdbah) fun _ => rfl,
      exec_wrInstr_of_no_hook s wv be (r := .rdlen) fun _ => rfl,
      exec_wrInstr_of_no_hook s wv be (r := .rdt) fun _ => rfl,
      exec_wrInstr_of_no_hook s wv be (r := .tdbal) fun _ => rfl,
      exec_wrInstr_of_no_hook s wv be (r := .tdbah) fun _ => rfl,
      exec_wrInstr_of_no_hook s wv be (r := .tdlen) fun _ => rfl,
      exec_wrInstr_of_no_hook s wv be (r := .itr) fun _ => rfl⟩

/-! ### A read after a full write -/

theorem byteMask_all : byteMask 0b1111#4 = BitVec.allOnes 32 := by decide

/-- With every lane enabled the writable bits are those written and the others stay. -/
theorem storedValue_all_lanes (old m V : Word) : storedValue old m V 0b1111#4 = (V &&& m) ||| (old &&& ~~~m) := by
  rw [storedValue, byteMask_all, BitVec.and_allOnes, BitVec.and_allOnes, BitVec.or_comm]

/-- A hook leaves its own register as it was stored, but for those of EERD, MDIC, ICR and IMS and for the reset that CTRL
can start; the drain of TDT writes the head and the causes only (44_transmit.md R260, R262). -/
theorem writeHook_reg_self {wv : Word} {r : Reg} (be : BitVec 4) (s : State) (hr : r ∉ [Reg.eerd, .mdic, .icr, .ims])
    (hctrl : r = .ctrl → wv.getLsbD 26 = false) : (writeHook wv be r s).reg r = s.reg r := by
  cases r
  case ctrl => rw [writeHook, hctrl rfl]; rfl
  case tdt => exact txDrain_reg_other s .tdt (by decide) (by decide)
  case eerd => exact absurd (by decide) hr
  case mdic => exact absurd (by decide) hr
  case icr => exact absurd (by decide) hr
  case ims => exact absurd (by decide) hr
  all_goals rfl

/-- The law of R137 for a stored register that its hook leaves alone. -/
theorem dwRead_after_full_write {V : Word} {r : Reg} (s : State) (hstored : Reg.stored r = true)
    (hr : r ∉ [Reg.eerd, .mdic, .icr, .ims]) (hctrl : r = .ctrl → V.getLsbD 26 = false) :
    dwRead (writeHook V 0b1111#4 r (storeMasked r V 0b1111#4 s)) r =
      ((V &&& r.wmask) ||| (s.reg r &&& ~~~r.wmask)) &&& r.rmask := by
  have hne : r ≠ .eerd := by rintro rfl; exact hr List.mem_cons_self
  rw [dwRead_of_ne_eerd _ hne, writeHook_reg_self _ _ hr hctrl, storeMasked_eq_setReg, reg_setReg_same _ _ _ hstored,
    storedValue_all_lanes]

/-- The registers of R137 are stored and none has a hook that writes it. -/
theorem roundTrip_registers : ∀ r ∈ [Reg.itr, .rctl, .tctl, .rdbal, .rdbah, .rdlen, .rdt, .tdbal, .tdbah, .tdlen, .tdt,
    .rxcsum], Reg.stored r = true ∧ r ∉ [Reg.eerd, .mdic, .icr, .ims] ∧ r ≠ .ctrl := by decide

/-- Settles O13: the masked store puts the value into the register and the hook leaves it there. -/
theorem roundTripLaw : Obligations.RoundTripLaw := by
  intro s V r h
  refine ⟨_, exec_wrInstr V 0b1111#4 r s, ?_⟩
  rcases h with hmem | ⟨rfl, hrst⟩
  · obtain ⟨hstored, hr, hne⟩ := roundTrip_registers r hmem
    exact dwRead_after_full_write s hstored hr fun hctrl => absurd hctrl hne
  · exact dwRead_after_full_write s rfl (by decide) fun _ => hrst

end Sys2Proof.Machine
end

section
/-! SUPPORT. The registers that a driver can only read: the proof of the statement about their writes
(41_control_regs.md). -/

namespace Sys2Proof.Machine

/-- A write of a register that has no writable bit and no hook is discarded (40_dispatcher.md R134). -/
theorem exec_wrInstr_of_read_only (s : State) (wv : Word) (be : BitVec 4) {r : Reg} (hmask : r.wmask = 0#32)
    (hhook : ∀ u, writeHook wv be r u = u) : exec (wrInstr wv be r) s = .next s := by
  rw [exec_wrInstr, storeMasked_of_wmask_zero hmask, hhook]

/-- Settles O12: STATUS, RDH and TDH have an empty write mask and no hook. -/
theorem readOnlyRegistersDiscardWrites : Obligations.ReadOnlyRegistersDiscardWrites := by
  intro s wv be
  exact
    ⟨exec_wrInstr_of_read_only s wv be (r := .status) rfl fun _ => rfl,
      exec_wrInstr_of_read_only s wv be (r := .rdh) rfl fun _ => rfl,
      exec_wrInstr_of_read_only s wv be (r := .tdh) rfl fun _ => rfl⟩

end Sys2Proof.Machine
end

section
/-! SUPPORT. The registers that drive the interrupt line: the proof of the statement about their writes
(42_interrupt_regs.md). -/

namespace Sys2Proof.Machine

/-- A write of a register that has no writable bit runs its hook on the state as it is (40_dispatcher.md R134). -/
theorem exec_wrInstr_of_wmask_zero (s : State) (wv : Word) (be : BitVec 4) {r : Reg} (hmask : r.wmask = 0#32) :
    exec (wrInstr wv be r) s = .next (writeHook wv be r s) := by
  rw [exec_wrInstr, storeMasked_of_wmask_zero hmask]

/-- Settles O18: the masked store of the four registers keeps every bit, so each write is its hook, whose update of ICR or
IMS the line is evaluated on. -/
theorem interruptRegisterWrites : Obligations.InterruptRegisterWrites := by
  intro s wv be
  exact
    ⟨exec_wrInstr_of_wmask_zero s wv be (r := .icr) rfl,
      exec_wrInstr_of_wmask_zero s wv be (r := .ics) rfl,
      exec_wrInstr_of_wmask_zero s wv be (r := .ims) rfl,
      exec_wrInstr_of_wmask_zero s wv be (r := .imc) rfl⟩

end Sys2Proof.Machine
end

section
/-! SUPPORT. The EEPROM window, MDIC and the PHY behind it: the proofs of the statements about their content, their
writes and their commands (43_eeprom_mdic.md). -/

namespace Sys2Proof.Machine

/-! ### The content of the EEPROM -/

theorem eepromWord_of_lt (mac : Mac) {n : Nat} (h : n < 63) : eepromWord mac n = eepromBody mac n :=
  if_neg (Nat.ne_of_lt h)

theorem eepromWord_last (mac : Mac) : eepromWord mac 63 = 0xBABA#16 - eepromBodySum mac 63 := rfl

/-- The words before the checksum word sum to what the checksum word is computed from. -/
theorem sum_eepromWord (mac : Mac) {n : Nat} (h : n ≤ 63) :
    ((List.range n).map (eepromWord mac)).foldl (· + ·) 0#16 = eepromBodySum mac n := by
  induction n with
  | zero => rfl
  | succ n ih =>
    rw [List.range_succ, List.map_append, List.foldl_append, ih (Nat.le_of_succ_le h), List.map_singleton,
      List.foldl_cons, List.foldl_nil, eepromWord_of_lt mac h, eepromBodySum]

/-- With the checksum word added, the sum is `EEPROM_SUM` (43_eeprom_mdic.md R217). -/
theorem sum_eepromWord_all (mac : Mac) :
    ((List.range 64).map (eepromWord mac)).foldl (· + ·) 0#16 = 0xBABA#16 := by
  rw [List.range_succ, List.map_append, List.foldl_append, sum_eepromWord mac le_rfl, List.map_singleton,
    List.foldl_cons, List.foldl_nil, eepromWord_last, BitVec.add_comm, BitVec.sub_add_cancel]

/-- A word of two bytes, low byte first, as a number. -/
theorem toNat_byte_append (hi lo : Byte) : (hi ++ lo : BitVec 16).toNat = lo.toNat + 256 * hi.toNat := by
  rw [BitVec.toNat_append, ← Nat.shiftLeft_add_eq_or_of_lt lo.isLt, Nat.shiftLeft_eq, Nat.mul_comm, Nat.add_comm]

/-- Settles O27: the MAC words are two bytes each, the words after them are zero, and the checksum word closes the sum. -/
theorem eepromContent : Obligations.EepromContent := by
  intro mac
  refine ⟨toNat_byte_append _ _, toNat_byte_append _ _, toNat_byte_append _ _, fun n h3 h62 => ?_, ?_,
    sum_eepromWord_all mac, fun n => rfl⟩
  · rw [eepromWord_of_lt mac (by omega), eepromBody, if_neg (by omega), if_neg (by omega), if_neg (by omega)]
  · rw [eepromWord_last, sum_eepromWord mac le_rfl]

/-! ### The PHY -/

/-- `PhyRead` of a register that the PHY has not (43_eeprom_mdic.md R222). -/
theorem phyRead_of_four_le (s : State) {r : BitVec 5} (h : 4 ≤ r.toNat) : phyRead s r = 0#16 := by
  have hne (k : Nat) (hk : k < 4) : r ≠ BitVec.ofNat 5 k := by
    rintro rfl
    rw [BitVec.toNat_ofNat, Nat.mod_eq_of_lt (by omega)] at h
    omega
  rw [phyRead, if_neg (hne 0 (by decide)), if_neg (hne 1 (by decide)), if_neg (hne 2 (by decide)),
    if_neg (hne 3 (by decide))]

theorem phyWrite_zero (v : BitVec 16) (s : State) :
    phyWrite 0#5 v s = { s with phy0 := if v.getLsbD 15 then 0x1140#16 else v &&& 0x7DFF#16 } := rfl

/-- Only register 0 of the PHY can be written (43_eeprom_mdic.md R225). -/
theorem phyWrite_of_ne_zero {r : BitVec 5} (h : r ≠ 0#5) (v : BitVec 16) (s : State) : phyWrite r v s = s := if_neg h

/-- A PHY register write neither sees nor changes the registers of the block. -/
theorem phyWrite_setReg (r : BitVec 5) (v : BitVec 16) (s : State) (q : Reg) (w : Word) :
    phyWrite r v (s.setReg q w) = (phyWrite r v s).setReg q w := by
  by_cases hr : r = 0#5
  · rw [hr]; rfl
  · rw [phyWrite_of_ne_zero hr, phyWrite_of_ne_zero hr]

/-- Settles O30, register by register; bit 15 written to register 0 decides between the reset and the store. -/
theorem phyRegisters : Obligations.PhyRegisters := by
  intro s r v
  refine ⟨rfl, rfl, rfl, rfl, phyRead_of_four_le s, fun hreset => ?_, fun hstore => ?_,
    fun hr => phyWrite_of_ne_zero hr v s⟩
  · rw [phyWrite_zero, if_pos hreset]
  · rw [phyWrite_zero, hstore, if_neg Bool.false_ne_true]

/-! ### The write of EERD -/

theorem exec_wrEerd (wv : Word) (be : BitVec 4) (s : State) :
    exec (.wrEerd wv be) s =
      .next
        (if be.getLsbD 0 then setEerdDone (wv.getLsbD 0) (storeMasked .eerd wv be s)
        else storeMasked .eerd wv be s) :=
  (exec_wrInstr wv be .eerd s).trans (congrArg _ (writeHook_eerd wv be _))

theorem setEerdDone_storeMasked (b : Bool) (wv : Word) (be : BitVec 4) (s : State) :
    setEerdDone b (storeMasked .eerd wv be s) =
      s.setReg .eerd (setBit (storedValue (s.reg .eerd) Reg.eerd.wmask wv be) 4 b) := by
  rw [setEerdDone, storeMasked_eq_setReg, reg_setReg_same _ _ _ rfl, setReg_setReg]

/-- DONE as the two masks of a set and a cleared bit 4. -/
theorem setBit_four (w : Word) (b : Bool) : setBit w 4 b = if b then w ||| 0x10#32 else w &&& 0xFFFFFFEF#32 := rfl

/-- Settles O28: the write is the masked store, with DONE set to START after it if lane 0 is enabled. -/
theorem eerdWriteStoresAddressAndDone : Obligations.EerdWriteStoresAddressAndDone := by
  intro s wv be e
  rw [exec_wrEerd, setEerdDone_storeMasked, setBit_four, storeMasked_eq_setReg]
  cases be.getLsbD 0 <;> rfl

/-! ### The write of MDIC -/

theorem exec_wrMdic (wv : Word) (be : BitVec 4) (s : State) :
    exec (.wrMdic wv be) s =
      .next
        (if be.getLsbD 3 then
          runMdi (decodeMdi (storedValue (s.reg .mdic) Reg.mdic.wmask wv be))
            (s.setReg .mdic (storedValue (s.reg .mdic) Reg.mdic.wmask wv be))
        else s.setReg .mdic (storedValue (s.reg .mdic) Reg.mdic.wmask wv be)) := rfl

theorem mdicDone_true (w : Word) : mdicDone true w = w ||| 0x50000000#32 := BitVec.or_assoc w _ _

theorem mdicDone_false (w : Word) : mdicDone false w = (w &&& 0xBFFFFFFF#32) ||| 0x10000000#32 := rfl

/-- What an operation leaves when it completes with the value `v` of MDIC: MDAC is raised if the command had I set
(43_eeprom_mdic.md R221). -/
def mdicComplete (irq : Bool) (v : Word) (s : State) : State :=
  if irq then raiseCause causeMdac (s.setReg .mdic v) else s.setReg .mdic v

theorem mdiDone_setReg (err : Bool) (w : Word) (s : State) :
    mdiDone err (s.setReg .mdic w) = mdicComplete (w.getLsbD 29) (mdicDone err w) s := by
  have hirq : (mdicDone err w).getLsbD 29 = w.getLsbD 29 := by
    rw [mdicDone, getLsbD_setBit _ _ _ _ (by decide), getLsbD_setBit _ _ _ _ (by decide)]
    rfl
  rw [mdiDone_eq, setReg_setReg, mdiNotify, reg_setReg_same _ _ _ rfl, reg_setReg_same _ _ _ rfl, hirq, mdicComplete]

section StoredCommand

/-! The operation of the command in `m`, once `m` is stored in MDIC (43_eeprom_mdic.md R221). -/

variable {m : Word} {c : MdiFields} (s : State)

theorem runMdi_stored_reserved {op : BitVec 2} {pa : BitVec 5} (h : decodeMdi m = .reserved op pa c) :
    runMdi (decodeMdi m) (s.setReg .mdic m) = mdicComplete (m.getLsbD 29) (m ||| 0x50000000#32) s := by
  rw [← mdicDone_true, ← mdiDone_setReg]
  exact runMdi_own_reserved (s := s.setReg .mdic m) h

theorem runMdi_stored_read (h : decodeMdi m = .read c) :
    runMdi (decodeMdi m) (s.setReg .mdic m) =
      mdicComplete (m.getLsbD 29) ((withData m (phyRead s c.regadd) &&& 0xBFFFFFFF#32) ||| 0x10000000#32) s := by
  have hirq : (withData m (phyRead s c.regadd)).getLsbD 29 = m.getLsbD 29 := getLsbD_withData _ _ 29
  rw [← mdicDone_false, ← hirq, ← mdiDone_setReg]
  exact runMdi_own_read (s := s.setReg .mdic m) h

theorem runMdi_stored_write (h : decodeMdi m = .write c) :
    runMdi (decodeMdi m) (s.setReg .mdic m) =
      mdicComplete (m.getLsbD 29) ((m &&& 0xBFFFFFFF#32) ||| 0x10000000#32) (phyWrite c.regadd c.data s) := by
  rw [← mdicDone_false, ← mdiDone_setReg, ← phyWrite_setReg]
  exact runMdi_own_write (s := s.setReg .mdic m) h

end StoredCommand

/-- The operation of a command that is stored in MDIC, by its PHYADD and OP (43_eeprom_mdic.md R221). -/
theorem runMdi_stored (m : Word) (s : State) :
    runMdi (decodeMdi m) (s.setReg .mdic m) =
      if m.extractLsb' 21 5 ≠ Config.phyAddr then mdicComplete (m.getLsbD 29) (m ||| 0x50000000#32) s
      else if m.extractLsb' 26 2 = 0b10#2 then
        mdicComplete (m.getLsbD 29)
          ((withData m (phyRead s (mdiFields m).regadd) &&& 0xBFFFFFFF#32) ||| 0x10000000#32) s
      else if m.extractLsb' 26 2 = 0b01#2 then
        mdicComplete (m.getLsbD 29) ((m &&& 0xBFFFFFFF#32) ||| 0x10000000#32)
          (phyWrite (mdiFields m).regadd (mdiFields m).data s)
      else mdicComplete (m.getLsbD 29) (m ||| 0x50000000#32) s := by
  have hdec := decodeMdi_eq m
  split_ifs at hdec ⊢ with hpa hread hwrite
  · exact runMdi_stored_reserved s hdec
  · exact runMdi_stored_read s hdec
  · exact runMdi_stored_write s hdec
  · exact runMdi_stored_reserved s hdec

/-- Settles O29: without lane 3 the write is its masked store; with it the stored command runs and completes. -/
theorem mdicWriteRunsTheCommand : Obligations.MdicWriteRunsTheCommand := by
  intro s wv be m complete
  refine ⟨fun hlane => ?_, fun hlane => ?_⟩
  · rw [exec_wrMdic, hlane]
    rfl
  · rw [exec_wrMdic, if_pos hlane, runMdi_stored]
    rfl

/-! ### The command operations -/

theorem exec_mdiInstr (cmd : MdiCmd) (s : State) : exec (mdiInstr cmd) s = .next (runMdi cmd s) := by
  cases cmd <;> rfl

theorem exec_eerdStart (adr : Byte) (data : BitVec 16) (s : State) :
    exec (.eerdStart adr data) s = .next (eerdStart adr data s) := rfl

/-- Every bit of a command is writable (10_state.md R19). -/
theorem mdiCommandWord_and_wmask (cmd : MdiCmd) : mdiCommandWord cmd &&& Reg.mdic.wmask = mdiCommandWord cmd := by
  have hword (op : BitVec 2) (pa : BitVec 5) (c : MdiFields) :
      encodeMdi op pa c &&& Reg.mdic.wmask = encodeMdi op pa c := by
    refine BitVec.eq_of_getLsbD_eq fun i hi => ?_
    simp only [encodeMdi, flagBit, BitVec.getLsbD_and, BitVec.getLsbD_append]
    interval_cases i <;> simp [Reg.wmask]
  cases cmd with
  | read c => exact hword _ _ c
  | write c => exact hword _ _ c
  | reserved op pa c => exact hword op pa c

/-- R, E and bit 31, the bits a write cannot change, are no part of the command. -/
theorem decodeMdi_and_wmask (w : Word) : decodeMdi (w &&& Reg.mdic.wmask) = decodeMdi w := by
  have hmask : ∀ i < 28, Reg.mdic.wmask.getLsbD i = true := by decide
  have hfield (start len : Nat) (h : start + len ≤ 28) :
      (w &&& Reg.mdic.wmask).extractLsb' start len = w.extractLsb' start len := by
    refine BitVec.eq_of_getLsbD_eq fun i hi => ?_
    rw [BitVec.getLsbD_extractLsb', BitVec.getLsbD_extractLsb', BitVec.getLsbD_and, hmask _ (by omega), Bool.and_true]
  have hirq : (w &&& Reg.mdic.wmask).getLsbD 29 = w.getLsbD 29 := by
    rw [BitVec.getLsbD_and]; exact Bool.and_true _
  rw [decodeMdi_eq, decodeMdi_eq, mdiFields, mdiFields, hirq, hfield 26 2 (by decide), hfield 21 5 (by decide),
    hfield 16 5 (by decide), hfield 0 16 (by decide)]

/-- A full write of a command leaves that command in MDIC, whatever stood there. -/
theorem decodeMdi_stored_command (old : Word) (cmd : MdiCmd) (h : (mdiInstr cmd).wf = true) :
    decodeMdi ((old &&& ~~~Reg.mdic.wmask) ||| mdiCommandWord cmd) = cmd := by
  have hbits : ((old &&& ~~~Reg.mdic.wmask) ||| mdiCommandWord cmd) &&& Reg.mdic.wmask = mdiCommandWord cmd := by
    rw [BitVec.and_or_distrib_right, BitVec.and_assoc, BitVec.not_and_self, BitVec.ofNat_eq_ofNat,
      BitVec.and_zero, BitVec.zero_or, mdiCommandWord_and_wmask]
  rw [← decodeMdi_and_wmask, hbits, decodeMdi_mdiCommandWord cmd h]

/-- The operation of a command is the operation of what it leaves in MDIC (log entry 9). -/
theorem runMdi_stored_command (cmd : MdiCmd) (s : State) {m : Word}
    (hm : m = (s.reg .mdic &&& ~~~Reg.mdic.wmask) ||| mdiCommandWord cmd) (hdec : decodeMdi m = cmd) :
    runMdi (decodeMdi m) (s.setReg .mdic m) = runMdi cmd s := by
  cases cmd with
  | read c => exact (runMdi_own_read (s := s.setReg .mdic m) hdec).trans (by rw [hm]; rfl)
  | write c => exact (runMdi_own_write (s := s.setReg .mdic m) hdec).trans (by rw [hm]; rfl)
  | reserved op pa c => exact (runMdi_own_reserved (s := s.setReg .mdic m) hdec).trans (by rw [hm]; rfl)

/-- A full write of a command to MDIC does what the command's operation does. -/
theorem exec_wrMdic_command (cmd : MdiCmd) (h : (mdiInstr cmd).wf = true) (s : State) :
    exec (.wrMdic (mdiCommandWord cmd) 0b1111#4) s = .next (runMdi cmd s) := by
  have hm : storedValue (s.reg .mdic) Reg.mdic.wmask (mdiCommandWord cmd) 0b1111#4 =
      (s.reg .mdic &&& ~~~Reg.mdic.wmask) ||| mdiCommandWord cmd := by
    rw [storedValue_all_lanes, mdiCommandWord_and_wmask, BitVec.or_comm]
  rw [exec_wrMdic, if_pos (by decide),
    runMdi_stored_command cmd s hm (by rw [hm]; exact decodeMdi_stored_command _ cmd h)]

/-- Of an EEPROM command EERD stores the address alone (10_state.md R18). -/
theorem eerd_command_and_wmask (adr : Byte) (data : BitVec 16) :
    (data ++ adr ++ 0x01#8 : Word) &&& Reg.eerd.wmask = adr.setWidth 32 <<< 8 := by
  refine BitVec.eq_of_getLsbD_eq fun i hi => ?_
  simp only [BitVec.getLsbD_and, BitVec.getLsbD_append, BitVec.getLsbD_shiftLeft, BitVec.getLsbD_setWidth]
  interval_cases i <;> simp [Reg.wmask]

/-- A full write of an EEPROM command to EERD does what the command's operation does. -/
theorem exec_wrEerd_command (adr : Byte) (data : BitVec 16) (s : State) :
    exec (.wrEerd (data ++ adr ++ 0x01#8) 0b1111#4) s = .next (eerdStart adr data s) := by
  have hstart : (data ++ adr ++ 0x01#8 : Word).getLsbD 0 = true := by rw [BitVec.getLsbD_append]; rfl
  rw [exec_wrEerd, if_pos (by decide), hstart, storeMasked_eq_setReg, storedValue_all_lanes, eerd_command_and_wmask,
    BitVec.or_comm, eerdStart]

/-- The reserved commands of R223 are the well-formed ones. -/
theorem wfMdiReserved_of {op : BitVec 2} {pa : BitVec 5} (h : op = 0b00#2 ∨ op = 0b11#2 ∨ pa ≠ 1#5) :
    wfMdiReserved op pa = true := by
  rcases h with rfl | rfl | hpa
  · rfl
  · rfl
  · have hne : (pa != Config.phyAddr) = true := bne_iff_ne.mpr hpa
    rw [wfMdiReserved, hne, Bool.or_true]

/-- Settles O31: a command's operation and its write to the register leave the same state, for each command of MDIC and
for the one of EERD. -/
theorem commandRowsAreWhatTheHooksRun : Obligations.CommandRowsAreWhatTheHooksRun := by
  intro s c op pa n data
  exact
    ⟨⟨_, exec_mdiInstr (.read c) s, exec_wrMdic_command (.read c) rfl s⟩,
      ⟨_, exec_mdiInstr (.write c) s, exec_wrMdic_command (.write c) rfl s⟩,
      fun h =>
        ⟨_, exec_mdiInstr (.reserved op pa c) s, exec_wrMdic_command (.reserved op pa c) (wfMdiReserved_of h) s⟩,
      ⟨_, exec_eerdStart n data s, exec_wrEerd_command n data s⟩⟩

end Sys2Proof.Machine
end

section
/-! SUPPORT. What a transmit descriptor's step does and what it leaves unchanged: the proofs of the statements about the
descriptor kinds, the write-back and the fetch (44_transmit.md R243 to R259). -/

namespace Sys2Proof.Machine

/-! ### The end of a descriptor -/

/-- A descriptor that asks for a report has one: DD, and ERR beside it on an error (44_transmit.md R258). -/
theorem txStatus_of_reports {rs failed offerr : Bool} (h : rs = true ∨ failed = true ∨ offerr = true) :
    txStatus rs failed offerr = some (if failed || offerr then 0x3#4 else 0x1#4) := by
  cases herr : failed || offerr
  · obtain ⟨rfl, rfl⟩ := Bool.or_eq_false_iff.mp herr
    obtain rfl : rs = true := by simpa using h
    rfl
  · rw [txStatus, herr]
    rfl

theorem txWriteBack_of_mapped {s : State} (hm : mappable s.holes (txDescAddr s + 12#64) 1 = true) (rsv v : BitVec 4) :
    txWriteBack rsv (some v) s =
      { s with
        mem := Memory.write s.mem (txDescAddr s + 12#64).toNat (rsv ++ v)
        out := s.out ++ [.memWrite (txDescAddr s + 12#64) [rsv ++ v] true] } := by
  rcases txWriteBack_cases rsv (some v) s with ⟨h, _⟩ | ⟨w, h, _, e⟩ | ⟨_, _, hno, _⟩
  · cases h
  · cases h
    exact e
  · exact absurd (hm.symm.trans hno) (by decide)

theorem txWriteBack_of_unmapped {s : State} (hno : mappable s.holes (txDescAddr s + 12#64) 1 = false)
    (rsv v : BitVec 4) :
    txWriteBack rsv (some v) s =
      { s with
        out := s.out ++ [.memWrite (txDescAddr s + 12#64) [rsv ++ v] false, .raised (.dma .txWriteback)] } := by
  rcases txWriteBack_cases rsv (some v) s with ⟨h, _⟩ | ⟨_, _, hm, _⟩ | ⟨w, h, _, e⟩
  · cases h
  · exact absurd (hm.symm.trans hno) (by decide)
  · cases h
    rw [e, raiseFault, State.emit, State.emit, List.append_assoc]
    rfl

theorem requestIrq_true (s : State) : requestIrq true s = { s with tx := { s.tx with wantIrq := true } } := by
  rw [requestIrq, Bool.or_true]

/-- A descriptor that reports nothing leaves the state as it is (44_transmit.md R258, R259). -/
theorem finishDesc_of_silent (rsv : BitVec 4) (s : State) : finishDesc false rsv false false s = s := by
  rw [finishDesc, Bool.or_false, Bool.or_false, requestIrq, Bool.or_false]
  rfl

theorem finishDesc_of_reports {rs failed offerr : Bool} (h : rs = true ∨ failed = true ∨ offerr = true)
    (rsv : BitVec 4) (s : State) :
    finishDesc rs rsv failed offerr s =
      requestIrq true (txWriteBack rsv (some (if failed || offerr then 0x3#4 else 0x1#4)) s) := by
  have hreq : (rs || failed || offerr) = true := by simpa [or_assoc] using h
  rw [finishDesc, hreq, txStatus_of_reports h]

/-- Settles O32, by whether the descriptor reports and whether its status byte is mapped. -/
theorem transmitWriteBack : Obligations.TransmitWriteBack := by
  intro s rs failed offerr rsv
  refine ⟨?_, fun h => ⟨fun hm => ?_, fun hno => ?_⟩⟩
  · rintro rfl rfl rfl
    exact finishDesc_of_silent rsv s
  · rw [finishDesc_of_reports h, txWriteBack_of_mapped hm, requestIrq_true]
  · rw [finishDesc_of_reports h, txWriteBack_of_unmapped hno, requestIrq_true]

/-- Settles O33: the row is `txContext`. -/
theorem contextDescriptorLoadsTheContext : Obligations.ContextDescriptorLoadsTheContext := fun _ _ => rfl

/-! ### The start of a packet -/

/-- The assembly once a buffer descriptor has started its packet (44_transmit.md R251). -/
def startedAsm (kind : TxKind) (tse : Bool) (popts : Byte) (a : TxAsm) : TxAsm :=
  if a.firstKind = none then { a with firstKind := some kind, pktTse := tse, pktPopts := popts } else a

theorem startPacket_eq (kind : TxKind) (tse : Bool) (popts : Byte) (s : State) :
    startPacket kind tse popts s = { s with tx := startedAsm kind tse popts s.tx } := by
  unfold startPacket startedAsm
  split <;> rfl

/-- The start of a packet fixes its kind and touches neither its bytes nor what the drain asked for. -/
structure SameBytes (a p : TxAsm) : Prop where
  asm : p.asm = a.asm
  poison : p.poison = a.poison
  wantIrq : p.wantIrq = a.wantIrq

theorem startedAsm_sameBytes (kind : TxKind) (tse : Bool) (popts : Byte) (a : TxAsm) :
    SameBytes a (startedAsm kind tse popts a) := by
  unfold startedAsm
  split <;> exact ⟨rfl, rfl, rfl⟩

/-! ### A descriptor of a reserved kind -/

/-- A packet that is poisoned and ended, or poisoned and going on (44_transmit.md R254). -/
theorem reservedPacket_eq (eop : Bool) (s : State) :
    (if eop then clearPacket (poisonPacket (raiseFault (.offload .txReservedKind) (startPacket .legacy false 0#8 s)))
      else poisonPacket (raiseFault (.offload .txReservedKind) (startPacket .legacy false 0#8 s))) =
      { s with
        out := s.out ++ [.raised (.offload .txReservedKind)]
        tx :=
          if eop then { TxAsm.fresh with wantIrq := s.tx.wantIrq }
          else { startedAsm .legacy false 0#8 s.tx with asm := [], poison := true } } := by
  rw [startPacket_eq]
  cases eop
  · rfl
  · rw [if_pos rfl, if_pos rfl, ← (startedAsm_sameBytes .legacy false 0#8 s.tx).wantIrq]
    rfl

/-- Settles O34, by whether the descriptor ends the packet and whether it begins one. -/
theorem reservedDescriptorFails : Obligations.ReservedDescriptorFails := by
  intro s d
  have hrun : exec (.txdReserved d) s = .next (finishDesc d.rs d.rsv true false _) := rfl
  rw [hrun, reservedPacket_eq d.eop s, startedAsm]
  by_cases hfirst : s.tx.firstKind = none
  · rw [if_pos hfirst, if_pos hfirst]
  · rw [if_neg hfirst, if_neg hfirst]

/-! ### A buffer descriptor of either kind -/

/-- The step of a buffer descriptor whose packet's assembly is `p` once started: the two kinds differ in `p` and in the
directive `ic` only (44_transmit.md R246, R247, R251, R252). -/
def runBuffer (p : TxAsm) (ic : Option (Byte × Byte)) (eop : Bool) (addr : Addr) (len : Nat) (rs : Bool)
    (rsv : BitVec 4) (s : State) : State :=
  let g := gatherBuffer addr len { s with tx := p }
  let e := endPacket eop ic g.2
  finishDesc rs rsv g.1 e.1 e.2

theorem txLegacy_eq_runBuffer (d : LegacyDesc) (s : State) :
    txLegacy d s =
      runBuffer (startedAsm .legacy false 0#8 s.tx) (if d.ic then some (d.css, d.cso) else none) d.eop d.addr
        d.length.toNat d.rs d.rsv s := by
  rw [runBuffer, ← startPacket_eq]
  rfl

theorem txData_eq_runBuffer (d : DataDesc) (s : State) :
    txData d s =
      runBuffer (startedAsm .data d.tse d.popts s.tx) none d.eop d.addr d.dtalen.toNat d.rs d.rsv s := by
  rw [runBuffer, ← startPacket_eq]
  rfl

theorem exec_txdLegacy (d : LegacyDesc) (s : State) :
    exec (.txdLegacy d) s =
      .next (runBuffer (startedAsm .legacy false 0#8 s.tx) (if d.ic then some (d.css, d.cso) else none) d.eop d.addr
        d.length.toNat d.rs d.rsv s) :=
  congrArg Host.Outcome.next (txLegacy_eq_runBuffer d s)

theorem exec_txdData (d : DataDesc) (s : State) :
    exec (.txdData d) s =
      .next (runBuffer (startedAsm .data d.tse d.popts s.tx) none d.eop d.addr d.dtalen.toNat d.rs d.rsv s) :=
  congrArg Host.Outcome.next (txData_eq_runBuffer d s)

/-! ### Gathering, case by case -/

theorem gatherBuffer_of_empty (addr : Addr) (s : State) : gatherBuffer addr 0 s = (false, s) := rfl

theorem gatherBuffer_of_unmapped {addr : Addr} {len : Nat} {s : State} (h0 : len ≠ 0)
    (hno : mappable s.holes addr len = false) :
    gatherBuffer addr len s =
      (true,
        { s with
          tx := { s.tx with poison := true, asm := [] }
          out := s.out ++ [.memRead addr len false, .raised (.dma .txBuffer)] }) := by
  simp [gatherBuffer, memRead, h0, hno, poisonPacket, raiseFault, State.emit]

theorem gatherBuffer_of_poisoned {addr : Addr} {len : Nat} {s : State} (h0 : len ≠ 0)
    (hm : mappable s.holes addr len = true) (hp : s.tx.poison = true) :
    gatherBuffer addr len s = (false, { s with out := s.out ++ [.memRead addr len true] }) := by
  simp [gatherBuffer, memRead, h0, hm, hp, State.emit]

theorem gatherBuffer_of_overflow {addr : Addr} {len : Nat} {s : State} (h0 : len ≠ 0)
    (hm : mappable s.holes addr len = true) (hp : s.tx.poison = false)
    (hlong : Config.txFrameMax < s.tx.asm.length + len) :
    gatherBuffer addr len s =
      (true,
        { s with
          tx := { s.tx with poison := true, asm := [] }
          out := s.out ++ [.memRead addr len true, .raised (.dma .txFrameOverflow)] }) := by
  simp [gatherBuffer, memRead, h0, hm, hp, hlong, poisonPacket, raiseFault, State.emit]

theorem gatherBuffer_of_fits {addr : Addr} {len : Nat} {s : State} (h0 : len ≠ 0)
    (hm : mappable s.holes addr len = true) (hp : s.tx.poison = false)
    (hfits : s.tx.asm.length + len ≤ Config.txFrameMax) :
    gatherBuffer addr len s =
      (false,
        { s with
          tx := { s.tx with asm := s.tx.asm ++ Memory.readRange s.mem addr.toNat len }
          out := s.out ++ [.memRead addr len true] }) := by
  simp [gatherBuffer, memRead, h0, hm, hp, Nat.not_lt_of_le hfits, State.emit]

/-! ### A buffer descriptor inside its packet -/

/-- What the descriptor inside a packet is to `runBuffer`, for each kind. -/
theorem exec_of_gathers {s : State} {i : Instr} {p : TxAsm} {addr : Addr} {len : Nat} {rs : Bool} {rsv : BitVec 4}
    (h : (∃ d : LegacyDesc, i = .txdLegacy d ∧ d.eop = false ∧ addr = d.addr ∧ len = d.length.toNat ∧ rs = d.rs ∧
        rsv = d.rsv ∧ p = startedAsm .legacy false 0#8 s.tx) ∨
      ∃ d : DataDesc, i = .txdData d ∧ d.eop = false ∧ addr = d.addr ∧ len = d.dtalen.toNat ∧ rs = d.rs ∧
        rsv = d.rsv ∧ p = startedAsm .data d.tse d.popts s.tx) :
    SameBytes s.tx p ∧ ∃ ic, exec i s = .next (runBuffer p ic false addr len rs rsv s) := by
  rcases h with ⟨d, rfl, heop, rfl, rfl, rfl, rfl, rfl⟩ | ⟨d, rfl, heop, rfl, rfl, rfl, rfl, rfl⟩
  · exact ⟨startedAsm_sameBytes _ _ _ _, _, heop ▸ exec_txdLegacy d s⟩
  · exact ⟨startedAsm_sameBytes _ _ _ _, _, heop ▸ exec_txdData d s⟩

/-- Without EOP the packet is left as the gathering leaves it. -/
theorem runBuffer_inside (p : TxAsm) (ic : Option (Byte × Byte)) (addr : Addr) (len : Nat) (rs : Bool)
    (rsv : BitVec 4) (s : State) :
    runBuffer p ic false addr len rs rsv s =
      finishDesc rs rsv (gatherBuffer addr len { s with tx := p }).1 false
        (gatherBuffer addr len { s with tx := p }).2 := rfl

/-- Settles O35: both kinds are `runBuffer`, and each clause is a case of the gathering. -/
theorem bufferDescriptorsGather : Obligations.BufferDescriptorsGather := by
  intro s i p addr len rs rsv h
  obtain ⟨⟨hasm, hpoison, -⟩, ic, hexec⟩ := exec_of_gathers h
  rw [hexec, runBuffer_inside, ← hasm, ← hpoison]
  refine ⟨?_, fun h0 hno => ?_, fun h0 hm hp => ?_, fun h0 hm hp hlong => ?_, fun h0 hm hp hfits => ?_⟩
  · rintro rfl
    rw [gatherBuffer_of_empty]
  · rw [gatherBuffer_of_unmapped (s := { s with tx := p }) h0 hno]
  · rw [gatherBuffer_of_poisoned (s := { s with tx := p }) h0 hm hp]
  · rw [gatherBuffer_of_overflow (s := { s with tx := p }) h0 hm hp hlong]
  · rw [gatherBuffer_of_fits (s := { s with tx := p }) h0 hm hp hfits]

/-! ### A buffer descriptor that ends its packet -/

/-- What the descriptor that ends a packet is to `runBuffer`, for each kind. -/
theorem exec_of_endsPacket {s : State} {i : Instr} {p : TxAsm} {ic : Option (Byte × Byte)} {addr : Addr} {len : Nat}
    {rs : Bool} {rsv : BitVec 4}
    (h : (∃ d : LegacyDesc, i = .txdLegacy d ∧ d.eop = true ∧ addr = d.addr ∧ len = d.length.toNat ∧ rs = d.rs ∧
        rsv = d.rsv ∧ ic = (if d.ic then some (d.css, d.cso) else none) ∧ p = startedAsm .legacy false 0#8 s.tx) ∨
      ∃ d : DataDesc, i = .txdData d ∧ d.eop = true ∧ addr = d.addr ∧ len = d.dtalen.toNat ∧ rs = d.rs ∧
        rsv = d.rsv ∧ ic = none ∧ p = startedAsm .data d.tse d.popts s.tx) :
    SameBytes s.tx p ∧ exec i s = .next (runBuffer p ic true addr len rs rsv s) := by
  rcases h with ⟨d, rfl, heop, rfl, rfl, rfl, rfl, rfl, rfl⟩ | ⟨d, rfl, heop, rfl, rfl, rfl, rfl, rfl, rfl⟩
  · exact ⟨startedAsm_sameBytes _ _ _ _, heop ▸ exec_txdLegacy d s⟩
  · exact ⟨startedAsm_sameBytes _ _ _ _, heop ▸ exec_txdData d s⟩

/-- A poisoned or empty packet ends without a frame (44_transmit.md R256, R257). -/
theorem endPacket_of_dropped {s : State} (ic : Option (Byte × Byte)) (h : s.tx.poison = true ∨ s.tx.asm = []) :
    endPacket true ic s = (false, clearPacket s) := by
  rcases endPacket_cases true ic s with ⟨h0, _⟩ | ⟨_, _, e⟩ | ⟨_, hp, ha, _⟩
  · cases h0
  · exact e
  · exact (h.elim (fun hq => absurd (hq.symm.trans hp) (by decide)) (absurd · ha))

/-- Any other packet ends with its frames, after OffloadError if its offload failed (44_transmit.md R255,
45_offload.md R284). -/
theorem endPacket_of_sent {s : State} (ic : Option (Byte × Byte)) (hp : s.tx.poison = false) (ha : s.tx.asm ≠ []) :
    endPacket true ic s =
      ((packetFrames s.txctx s.tx ic).2,
        { s with
          tx := { TxAsm.fresh with wantIrq := s.tx.wantIrq }
          out := s.out ++ (if (packetFrames s.txctx s.tx ic).2 then [.raised (.offload .txOffload)] else [])
            ++ (packetFrames s.txctx s.tx ic).1.map .send }) := by
  rcases endPacket_cases true ic s with ⟨h0, _⟩ | ⟨_, h, _⟩ | ⟨_, _, _, e⟩
  · cases h0
  · exact absurd h (by simp [hp, ha])
  · rw [e, txComplete_eq]
    rfl

theorem readRange_ne_nil (m : Memory) (a : Nat) {n : Nat} (h : n ≠ 0) : Memory.readRange m a n ≠ [] := by
  intro hnil
  have hlen := Memory.readRange_length m a n
  rw [hnil] at hlen
  exact h hlen.symm

/-- Settles O36: both kinds are `runBuffer`; each clause is a case of the gathering and then of the packet's end. -/
theorem endOfPacketSendsTheFrame : Obligations.EndOfPacketSendsTheFrame := by
  intro s i p ic addr len rs rsv h c cleared checksums offload nothingSent sent
  obtain ⟨⟨hasm, hpoison, hwant⟩, hexec⟩ := exec_of_endsPacket h
  have hoffload (f : List Byte) : offload f = packetFrames c { p with asm := f } ic := by
    cases ic <;> rfl
  have hcleared : cleared = { TxAsm.fresh with wantIrq := p.wantIrq } := by rw [hwant]
  rw [hexec, ← hasm, ← hpoison]
  simp only [runBuffer, nothingSent, sent, hoffload, hcleared]
  refine ⟨?_, ?_, fun h0 hno => ?_, fun h0 hm hp => ?_, fun h0 hm hp hlong => ?_, fun h0 hm hp hfits => ?_⟩
  · rintro rfl hdrop
    rw [gatherBuffer_of_empty, endPacket_of_dropped (s := { s with tx := p }) ic hdrop, List.append_nil]
    rfl
  · rintro rfl hp ha
    rw [gatherBuffer_of_empty, endPacket_of_sent (s := { s with tx := p }) ic hp ha, List.append_nil]
  · rw [gatherBuffer_of_unmapped (s := { s with tx := p }) h0 hno, endPacket_of_dropped ic (.inl rfl)]
    rfl
  · rw [gatherBuffer_of_poisoned (s := { s with tx := p }) h0 hm hp, endPacket_of_dropped ic (.inl hp)]
    rfl
  · rw [gatherBuffer_of_overflow (s := { s with tx := p }) h0 hm hp hlong, endPacket_of_dropped ic (.inl rfl)]
    rfl
  · have hne : p.asm ++ Memory.readRange s.mem addr.toNat len ≠ [] :=
      List.append_ne_nil_of_right_ne_nil _ (readRange_ne_nil _ _ h0)
    rw [gatherBuffer_of_fits (s := { s with tx := p }) h0 hm hp hfits, endPacket_of_sent ic hp hne]

/-! ### What a descriptor leaves unchanged -/

/-- Up to its write-back a descriptor changes only the assembly and the context, and the ports only gain events. -/
structure BodyFrame (s t : State) : Prop where
  block : SameBlock s t
  rx : t.rx = s.rx
  mem : t.mem = s.mem
  out : s.out <+: t.out

theorem BodyFrame.trans {s t u : State} (h : BodyFrame s t) (k : BodyFrame t u) : BodyFrame s u :=
  ⟨h.block.trans k.block, k.rx.trans h.rx, k.mem.trans h.mem, h.out.trans k.out⟩

theorem startPacket_bodyFrame (kind : TxKind) (tse : Bool) (popts : Byte) (s : State) :
    BodyFrame s (startPacket kind tse popts s) := by
  rw [startPacket_eq]
  exact ⟨⟨rfl, rfl, rfl, rfl, rfl, rfl, rfl, rfl, rfl⟩, rfl, rfl, ⟨[], List.append_nil _⟩⟩

theorem gatherBuffer_out (a : Addr) (len : Nat) (s : State) : s.out <+: (gatherBuffer a len s).2.out := by
  rcases gatherBuffer_cases a len s with ⟨_, e⟩ | ⟨_, _, e⟩ | ⟨_, _, _, e⟩ | ⟨_, _, _, _, e⟩ | ⟨_, _, _, _, e⟩ <;>
    rw [e]
  · exact ⟨_, (List.append_assoc _ _ _).symm⟩
  · exact ⟨_, rfl⟩
  · exact ⟨_, (List.append_assoc _ _ _).symm⟩
  · exact ⟨_, rfl⟩

theorem gatherBuffer_bodyFrame (a : Addr) (len : Nat) (s : State) : BodyFrame s (gatherBuffer a len s).2 :=
  ⟨gatherBuffer_sameBlock a len s, gatherBuffer_rx a len s, gatherBuffer_mem a len s, gatherBuffer_out a len s⟩

theorem endPacket_out (eop : Bool) (ic : Option (Byte × Byte)) (s : State) : s.out <+: (endPacket eop ic s).2.out := by
  rcases endPacket_cases eop ic s with ⟨_, e⟩ | ⟨_, _, e⟩ | ⟨_, _, _, e⟩ <;> rw [e]
  · rfl
  · rw [txComplete_eq]
    exact ⟨_, (List.append_assoc _ _ _).symm⟩

theorem endPacket_bodyFrame (eop : Bool) (ic : Option (Byte × Byte)) (s : State) :
    BodyFrame s (endPacket eop ic s).2 :=
  ⟨endPacket_sameBlock eop ic s, endPacket_rx eop ic s, endPacket_mem eop ic s, endPacket_out eop ic s⟩

/-- Every descriptor's step is a body that leaves guest memory alone and then the write-back with the interrupt request
(44_transmit.md R243); only CONTEXT changes the context. -/
theorem runTxd_eq_finishDesc (d : TxDesc) (s : State) :
    ∃ rs rsv failed offerr b, runTxd d s = finishDesc rs rsv failed offerr b ∧ BodyFrame s b ∧
      ((∀ c, d ≠ .context c) → b.txctx = s.txctx) := by
  cases d with
  | legacy d =>
    refine ⟨_, _, _, _, _, rfl, ?_, fun _ => ?_⟩
    · exact (startPacket_bodyFrame _ _ _ s).trans ((gatherBuffer_bodyFrame _ _ _).trans (endPacket_bodyFrame _ _ _))
    · rw [endPacket_txctx, gatherBuffer_txctx, startPacket_txctx]
  | context d =>
    exact ⟨_, _, _, _, _, rfl, ⟨⟨rfl, rfl, rfl, rfl, rfl, rfl, rfl, rfl, rfl⟩, rfl, rfl, ⟨[], List.append_nil _⟩⟩,
      fun h => absurd rfl (h d)⟩
  | data d =>
    refine ⟨_, _, _, _, _, rfl, ?_, fun _ => ?_⟩
    · exact (startPacket_bodyFrame _ _ _ s).trans ((gatherBuffer_bodyFrame _ _ _).trans (endPacket_bodyFrame _ _ _))
    · rw [endPacket_txctx, gatherBuffer_txctx, startPacket_txctx]
  | reserved d =>
    refine ⟨_, _, _, _, _, rfl, ?_, fun _ => ?_⟩ <;> rw [reservedPacket_eq]
    exact ⟨⟨rfl, rfl, rfl, rfl, rfl, rfl, rfl, rfl, rfl⟩, rfl, rfl, ⟨_, rfl⟩⟩

theorem txWriteBack_out (rsv : BitVec 4) (sta : Option (BitVec 4)) (s : State) :
    s.out <+: (txWriteBack rsv sta s).out := by
  rcases txWriteBack_cases rsv sta s with ⟨_, e⟩ | ⟨_, _, _, e⟩ | ⟨_, _, _, e⟩ <;> rw [e]
  · exact ⟨_, rfl⟩
  · exact ⟨_, (List.append_assoc _ _ _).symm⟩

theorem runTxd_txctx (d : TxDesc) (s : State) (h : ∀ c, d ≠ .context c) : (runTxd d s).txctx = s.txctx := by
  obtain ⟨rs, rsv, failed, offerr, b, e, -, hctx⟩ := runTxd_eq_finishDesc d s
  rw [e]
  exact (txWriteBack_txctx rsv _ b).trans (hctx h)

theorem runTxd_out (d : TxDesc) (s : State) : s.out <+: (runTxd d s).out := by
  obtain ⟨rs, rsv, failed, offerr, b, e, hbody, -⟩ := runTxd_eq_finishDesc d s
  rw [e]
  exact hbody.out.trans (txWriteBack_out rsv _ b)

/-- A descriptor stores nothing but its status byte (44_transmit.md R258). -/
theorem runTxd_read_other (d : TxDesc) (s : State) (k : Nat) (h : k ≠ (txDescAddr s + 12#64).toNat) :
    Memory.read (runTxd d s).mem k = Memory.read s.mem k := by
  obtain ⟨rs, rsv, failed, offerr, b, e, hbody, -⟩ := runTxd_eq_finishDesc d s
  rw [← txDescAddr_congr hbody.block.regs] at h
  rw [e, ← hbody.mem]
  exact txWriteBack_read_other rsv _ b k h

/-- The state after a descriptor, field by field. -/
theorem runTxd_eq (d : TxDesc) (s : State) :
    ∃ evs, runTxd d s =
      { s with
        tx := (runTxd d s).tx, txctx := (runTxd d s).txctx, mem := (runTxd d s).mem, out := s.out ++ evs } := by
  obtain ⟨evs, hout⟩ := runTxd_out d s
  have hblock := runTxd_sameBlock d s
  refine ⟨evs, ?_⟩
  rw [hout, ← hblock.regs, ← hblock.irqLine, ← hblock.itrHoldoff, ← hblock.rxDropCount, ← hblock.phy0, ← hblock.bus,
    ← hblock.mac, ← hblock.holes, ← hblock.inbox, ← (runTxd_txFrame d s).rx]

theorem exec_txdInstr (d : TxDesc) (s : State) : exec (txdInstr d) s = .next (runTxd d s) := by cases d <;> rfl

/-- The four transmit rows are the operations of the four kinds of descriptor. -/
theorem exists_txdInstr {i : Instr}
    (h : (∃ d, i = .txdLegacy d) ∨ (∃ d, i = .txdContext d) ∨ (∃ d, i = .txdData d) ∨ ∃ d, i = .txdReserved d) :
    ∃ d, i = txdInstr d := by
  rcases h with ⟨d, rfl⟩ | ⟨d, rfl⟩ | ⟨d, rfl⟩ | ⟨d, rfl⟩
  · exact ⟨.legacy d, rfl⟩
  · exact ⟨.context d, rfl⟩
  · exact ⟨.data d, rfl⟩
  · exact ⟨.reserved d, rfl⟩

/-- Settles O38, from the body and the write-back of a descriptor. -/
theorem transmitDescriptorFrame : Obligations.TransmitDescriptorFrame := by
  intro s i h
  obtain ⟨d, rfl⟩ := exists_txdInstr h
  obtain ⟨evs, heq⟩ := runTxd_eq d s
  refine ⟨runTxd d s, evs, exec_txdInstr d s, heq, fun hctx => ?_, runTxd_read_other d s⟩
  exact runTxd_txctx d s fun c hc => hctx ⟨c, by rw [hc]; rfl⟩

/-! ### The fetch -/

/-- Settles O39, by the two cases of the fetch. -/
theorem unfetchableDescriptorIsSkipped : Obligations.UnfetchableDescriptorIsSkipped := by
  intro s
  rcases txStep_cases s with ⟨hm, e⟩ | ⟨hno, e⟩
  · refine ⟨fun _ => ?_, fun hno => absurd (hm.symm.trans hno) (by decide)⟩
    exact ⟨_, _, decode_txdesc (Memory.readRange_length _ _ _), exec_txdInstr _ _, e⟩
  · refine ⟨fun hm => absurd (hm.symm.trans hno) (by decide), fun _ => ?_⟩
    rw [e, raiseFault, State.emit, State.emit, List.append_assoc]
    rfl

end Sys2Proof.Machine
end

section
/-! SUPPORT. The drain as rounds of one descriptor each: the proofs of the statements about the doorbell, the rounds and
the interrupt request (44_transmit.md R240 to R244, R258 to R263). -/

namespace Sys2Proof.Machine

/-! ### The doorbell -/

theorem exec_wrTdt (wv : Word) (be : BitVec 4) (s : State) :
    exec (.wrTdt wv be) s = .next (txDrain (storeMasked .tdt wv be s)) := rfl

/-- The tail that a write of TDT stores, as an index. -/
def storedTail (wv : Word) (be : BitVec 4) (s : State) : Nat :=
  ((storedValue (s.reg .tdt) Reg.tdt.wmask wv be).extractLsb' 0 16).toNat

/-- The doorbell's store changes the tail and neither the head nor the count of the ring. -/
theorem ring_storeMasked_tdt (wv : Word) (be : BitVec 4) (s : State) :
    txCount (storeMasked .tdt wv be s) = txCount s ∧ txHead (storeMasked .tdt wv be s) = txHead s ∧
      txTail (storeMasked .tdt wv be s) = storedTail wv be s := ⟨rfl, rfl, rfl⟩

theorem ringRefused_eq_true (n head tail : Nat) : ringRefused n head tail = true ↔ n = 0 ∨ n ≤ head ∨ n ≤ tail := by
  simp [ringRefused, or_assoc]

/-- Settles O40: the ring is refused, and what is left is the masked store. -/
theorem unusableTransmitRingDoesNothing : Obligations.UnusableTransmitRingDoesNothing := by
  intro s wv be tdt tail nt h
  obtain ⟨hcount, hhead, htail⟩ := ring_storeMasked_tdt wv be s
  have hrefused : ringRefused (txCount s) (txHead s) (storedTail wv be s) = true := (ringRefused_eq_true _ _ _).mpr h
  rw [exec_wrTdt, txDrain, hcount, hhead, htail, if_pos hrefused]
  rfl

/-! ### The rounds of a drain -/

/-- The state that the loop of a drain starts from: the tail stored, the assembly fresh (44_transmit.md R241). -/
def drainStart (wv : Word) (be : BitVec 4) (s : State) : State := { storeMasked .tdt wv be s with tx := TxAsm.fresh }

/-- One round of the drain: a step at the head and the head's advance (44_transmit.md R241, R260). -/
def drainRound (nt : Nat) (s : State) : State := advanceTdh nt (txStep s)

/-- The end of a drain: no assembly is left, and TXDW is raised if a descriptor asked for it (44_transmit.md R261,
R262). -/
def endDrain (s : State) : State :=
  if s.tx.wantIrq then raiseCause causeTxdw { s with tx := TxAsm.fresh } else { s with tx := TxAsm.fresh }

/-- A round writes the head alone of all registers. -/
theorem drainRound_regs (nt : Nat) (s : State) :
    (drainRound nt s).regs = s.regs.set (BitVec.ofNat 32 ((txHead s + 1) % nt)) .tdh := by
  have hregs : (txStep s).regs = s.regs := (txStep_sameBlock s).regs
  rw [drainRound, advanceTdh, setReg_regs, hregs, txHead_congr (reg_congr hregs .tdh)]

/-- A head register that holds an index of the ring reads as this index. -/
theorem txHead_of_regs {s : State} {f : RegFile} {i nt : Nat} (h : s.regs = f.set (BitVec.ofNat 32 i) .tdh)
    (hi : i < nt) (hn : nt ≤ 2 ^ 32) : txHead s = i := by
  rw [txHead, State.reg, h, RegFile.get_set_same _ _ _ rfl, BitVec.toNat_ofNat, Nat.mod_eq_of_lt (by omega)]

theorem drainRounds_regs {nt : Nat} {s : State} (hhead : txHead s < nt) (hn : nt ≤ 2 ^ 32) (j : Nat) :
    ((drainRound nt)^[j] s).regs = s.regs.set (BitVec.ofNat 32 ((txHead s + j) % nt)) .tdh := by
  induction j with
  | zero =>
    rw [Function.iterate_zero_apply, Nat.add_zero, Nat.mod_eq_of_lt hhead, txHead, BitVec.ofNat_toNat,
      BitVec.setWidth_eq, State.reg, RegFile.set_get]
  | succ j ih =>
    have hj : txHead ((drainRound nt)^[j] s) = (txHead s + j) % nt :=
      txHead_of_regs ih (Nat.mod_lt _ (Nat.zero_lt_of_lt hhead)) hn
    rw [Function.iterate_succ_apply', drainRound_regs, hj, ih, RegFile.set_set, Nat.mod_add_mod, Nat.add_assoc]

/-- After `j` rounds the head stands `j` places on (44_transmit.md R260). -/
theorem drainRounds_head {nt : Nat} {s : State} (hhead : txHead s < nt) (hn : nt ≤ 2 ^ 32) (j : Nat) :
    txHead ((drainRound nt)^[j] s) = (txHead s + j) % nt :=
  txHead_of_regs (drainRounds_regs hhead hn j) (Nat.mod_lt _ (Nat.zero_lt_of_lt hhead)) hn

theorem drainRounds_reg_other (nt j : Nat) (s : State) (q : Reg) (hq : q ≠ .tdh) :
    ((drainRound nt)^[j] s).reg q = s.reg q := by
  induction j with
  | zero => rfl
  | succ j ih =>
    rw [Function.iterate_succ_apply', State.reg, drainRound_regs, RegFile.get_set_other _ _ _ _ hq]
    exact ih

theorem drainRounds_tail (nt j : Nat) (s : State) : txTail ((drainRound nt)^[j] s) = txTail s :=
  txTail_congr (drainRounds_reg_other nt j s .tdt (by decide))

theorem tdba_drainRounds (nt j : Nat) (s : State) : tdba ((drainRound nt)^[j] s) = tdba s := by
  rw [tdba, tdba, drainRounds_reg_other nt j s .tdbah (by decide), drainRounds_reg_other nt j s .tdbal (by decide)]

theorem drainRounds_descAddr {nt : Nat} {s : State} (hhead : txHead s < nt) (hn : nt ≤ 2 ^ 32) (j : Nat) :
    txDescAddr ((drainRound nt)^[j] s) = descAddr (tdba s) ((txHead s + j) % nt) := by
  rw [txDescAddr, tdba_drainRounds, drainRounds_head hhead hn]

/-- The loop runs as many rounds as it takes the head to meet the tail first. -/
theorem txLoop_eq_drainRounds (nt n fuel : Nat) (s : State) (hfuel : n ≤ fuel)
    (hbefore : ∀ j < n, txHead ((drainRound nt)^[j] s) ≠ txTail ((drainRound nt)^[j] s))
    (hmeet : txHead ((drainRound nt)^[n] s) = txTail ((drainRound nt)^[n] s)) :
    txLoop nt fuel s = (drainRound nt)^[n] s := by
  induction n generalizing fuel s with
  | zero => exact txLoop_of_head_eq_tail nt fuel s hmeet
  | succ n ih =>
    cases fuel with
    | zero => exact absurd hfuel (Nat.not_succ_le_zero n)
    | succ fuel =>
      have hne : txHead s ≠ txTail s := hbefore 0 (Nat.zero_lt_succ n)
      rw [txLoop, if_neg hne]
      exact ih fuel (drainRound nt s) (Nat.le_of_succ_le_succ hfuel)
        (fun j hj => hbefore (j + 1) (Nat.succ_lt_succ hj)) hmeet

/-- On a usable ring `(tail + nt - head) mod nt` places lie from the head to the tail, and no fewer. -/
theorem places_to_tail {nt head tail n : Nat} (hhead : head < nt) (htail : tail < nt)
    (hplaces : n = (tail + nt - head) % nt) :
    n < nt ∧ (head + n) % nt = tail ∧ ∀ j < n, (head + j) % nt ≠ tail := by
  by_cases hle : head ≤ tail
  · have hn : n = tail - head := by
      rw [hplaces, show tail + nt - head = tail - head + nt by omega, Nat.add_mod_right, Nat.mod_eq_of_lt (by omega)]
    refine ⟨by omega, by rw [Nat.mod_eq_of_lt (by omega)]; omega, fun j hj => ?_⟩
    rw [Nat.mod_eq_of_lt (by omega)]
    omega
  · have hn : n = tail + nt - head := by rw [hplaces, Nat.mod_eq_of_lt (by omega)]
    refine ⟨by omega, by rw [show head + n = tail + nt by omega, Nat.add_mod_right, Nat.mod_eq_of_lt htail],
      fun j hj => ?_⟩
    by_cases hwrap : head + j < nt
    · rw [Nat.mod_eq_of_lt hwrap]
      omega
    · rw [Nat.mod_eq_sub_mod (by omega), Nat.mod_eq_of_lt (by omega)]
      omega

/-- On a usable ring a write of TDT runs the rounds from the head to the new tail and ends the drain
(44_transmit.md R241). -/
theorem exec_wrTdt_of_usable {wv : Word} {be : BitVec 4} {s : State} {n : Nat} (hhead : txHead s < txCount s)
    (htail : storedTail wv be s < txCount s) (hn : n = (storedTail wv be s + txCount s - txHead s) % txCount s) :
    exec (.wrTdt wv be) s = .next (endDrain ((drainRound (txCount s))^[n] (drainStart wv be s))) := by
  obtain ⟨hlt, hmeet, hbefore⟩ := places_to_tail hhead htail hn
  have hcount : txCount s ≤ 2 ^ 32 := (BitVec.isLt _).le
  have hstart (j : Nat) :
      txHead ((drainRound (txCount s))^[j] (drainStart wv be s)) = (txHead s + j) % txCount s :=
    drainRounds_head (s := drainStart wv be s) hhead hcount j
  have hloop : txLoop (txCount s) (txCount s) (drainStart wv be s) =
      (drainRound (txCount s))^[n] (drainStart wv be s) := by
    refine txLoop_eq_drainRounds _ n _ _ hlt.le (fun j hj => ?_) ?_
    · rw [hstart, drainRounds_tail]
      exact hbefore j hj
    · rw [hstart, drainRounds_tail]
      exact hmeet
  have husable : ringRefused (txCount s) (txHead s) (storedTail wv be s) = false :=
    (ringRefused_eq_false _ _ _).mpr ⟨by omega, hhead, htail⟩
  rcases txDrain_cases (storeMasked .tdt wv be s) with ⟨hrefused, _⟩ | ⟨_, u, hu, e⟩
  · exact absurd (hrefused.symm.trans husable) (by decide)
  · rw [exec_wrTdt, e, hu.trans hloop]
    rfl

/-- Settles O41: the drain has one round. -/
theorem drainOfOneDescriptor : Obligations.DrainOfOneDescriptor := by
  intro s wv be tdt tail nt hhead htail hnext hnt u v
  have hone : 1 = (tail + nt - txHead s) % nt := by
    by_cases hwrap : txHead s + 1 < nt
    · rw [hnext, Nat.mod_eq_of_lt hwrap, show txHead s + 1 + nt - txHead s = 1 + nt by omega, Nat.add_mod_right,
        Nat.mod_eq_of_lt hnt]
    · have hlast : txHead s + 1 = nt := by omega
      rw [hnext, hlast, Nat.mod_self, show 0 + nt - txHead s = 1 by omega, Nat.mod_eq_of_lt hnt]
  have hu : txHead u = txHead s := txHead_congr (reg_congr (txStep_sameBlock _).regs .tdh)
  have hround : drainRound nt (drainStart wv be s) = u.setReg .tdh (BitVec.ofNat 32 tail) := by
    rw [hnext, ← hu]
    rfl
  rw [exec_wrTdt_of_usable hhead htail hone, Function.iterate_one, hround]
  rfl

/-! ### The interrupt request -/

/-- The state without what the descriptors before asked for. -/
def forgetRequest (s : State) : State := { s with tx := { s.tx with wantIrq := false } }

theorem requestIrq_forgetRequest (s : State) : requestIrq s.tx.wantIrq (forgetRequest s) = s := by
  rw [requestIrq, forgetRequest, Bool.false_or]

theorem requestIrq_comm (b c : Bool) (s : State) : requestIrq b (requestIrq c s) = requestIrq c (requestIrq b s) := by
  simp only [requestIrq, Bool.or_right_comm]

/-! Nothing in a descriptor's step looks at the request. -/

theorem startPacket_requestIrq (kind : TxKind) (tse : Bool) (popts : Byte) (b : Bool) (s : State) :
    startPacket kind tse popts (requestIrq b s) = requestIrq b (startPacket kind tse popts s) := by
  by_cases hfirst : s.tx.firstKind = none
  · rw [startPacket, if_pos (show (requestIrq b s).tx.firstKind = none from hfirst), startPacket, if_pos hfirst]
    rfl
  · rw [startPacket, if_neg (show ¬(requestIrq b s).tx.firstKind = none from hfirst), startPacket, if_neg hfirst]

theorem gatherBuffer_requestIrq (a : Addr) (len : Nat) (b : Bool) (s : State) :
    gatherBuffer a len (requestIrq b s) = ((gatherBuffer a len s).1, requestIrq b (gatherBuffer a len s).2) := by
  rcases gatherBuffer_cases a len s with
    ⟨rfl, e⟩ | ⟨h0, hno, e⟩ | ⟨h0, hm, hp, e⟩ | ⟨h0, hm, hp, hlong, e⟩ | ⟨h0, hm, hp, hfits, e⟩ <;> rw [e]
  · rfl
  · rw [gatherBuffer_of_unmapped (s := requestIrq b s) h0 hno, raiseFault, State.emit, State.emit, List.append_assoc]
    rfl
  · rw [gatherBuffer_of_poisoned (s := requestIrq b s) h0 hm hp]
    rfl
  · rw [gatherBuffer_of_overflow (s := requestIrq b s) h0 hm hp hlong, raiseFault, State.emit, State.emit,
      List.append_assoc]
    rfl
  · rw [gatherBuffer_of_fits (s := requestIrq b s) h0 hm hp hfits]
    rfl

theorem endPacket_requestIrq (eop : Bool) (ic : Option (Byte × Byte)) (b : Bool) (s : State) :
    endPacket eop ic (requestIrq b s) = ((endPacket eop ic s).1, requestIrq b (endPacket eop ic s).2) := by
  rcases endPacket_cases eop ic s with ⟨rfl, _⟩ | ⟨rfl, h, _⟩ | ⟨rfl, hp, ha, _⟩
  · rfl
  · rw [endPacket_of_dropped (s := requestIrq b s) ic h, endPacket_of_dropped ic h]
    rfl
  · rw [endPacket_of_sent (s := requestIrq b s) ic hp ha, endPacket_of_sent ic hp ha]
    rfl

theorem txWriteBack_requestIrq (rsv : BitVec 4) (sta : Option (BitVec 4)) (b : Bool) (s : State) :
    txWriteBack rsv sta (requestIrq b s) = requestIrq b (txWriteBack rsv sta s) := by
  cases sta with
  | none => rfl
  | some v =>
    cases hm : mappable s.holes (txDescAddr s + 12#64) 1
    · rw [txWriteBack_of_unmapped hm, txWriteBack_of_unmapped (s := requestIrq b s) hm]
      rfl
    · rw [txWriteBack_of_mapped hm, txWriteBack_of_mapped (s := requestIrq b s) hm]
      rfl

theorem finishDesc_requestIrq (rs : Bool) (rsv : BitVec 4) (failed offerr b : Bool) (s : State) :
    finishDesc rs rsv failed offerr (requestIrq b s) = requestIrq b (finishDesc rs rsv failed offerr s) := by
  rw [finishDesc, txWriteBack_requestIrq, requestIrq_comm, finishDesc]

theorem runTxd_requestIrq (d : TxDesc) (b : Bool) (s : State) :
    runTxd d (requestIrq b s) = requestIrq b (runTxd d s) := by
  cases d with
  | legacy d =>
    simp only [runTxd, txLegacy, startPacket_requestIrq, gatherBuffer_requestIrq, endPacket_requestIrq,
      finishDesc_requestIrq]
  | context d =>
    simp only [runTxd, txContext, ← finishDesc_requestIrq]
    rfl
  | data d =>
    simp only [runTxd, txData, startPacket_requestIrq, gatherBuffer_requestIrq, endPacket_requestIrq,
      finishDesc_requestIrq]
  | reserved d =>
    simp only [runTxd, txReserved, startPacket_requestIrq, ← finishDesc_requestIrq]
    cases d.eop <;> rfl

theorem txStep_requestIrq (b : Bool) (s : State) : txStep (requestIrq b s) = requestIrq b (txStep s) := by
  rcases txStep_cases s with ⟨hm, e⟩ | ⟨hno, e⟩ <;> rcases txStep_cases (requestIrq b s) with ⟨hm', e'⟩ | ⟨hno', e'⟩
  · rw [e, e', ← runTxd_requestIrq]
    rfl
  · exact absurd (hm.symm.trans hno') (by decide)
  · exact absurd (hm'.symm.trans hno) (by decide)
  · rw [e, e']
    rfl

/-- A step requests an interrupt if one was requested before it or it requests one by itself (44_transmit.md R259). -/
theorem txStep_wantIrq (s : State) :
    (txStep s).tx.wantIrq = ((txStep (forgetRequest s)).tx.wantIrq || s.tx.wantIrq) := by
  have h := txStep_requestIrq s.tx.wantIrq (forgetRequest s)
  rw [requestIrq_forgetRequest] at h
  rw [h]
  rfl

/-- After `n` rounds an interrupt is requested exactly if one of them requests one by itself (44_transmit.md R262). -/
theorem drainRounds_wantIrq (nt n : Nat) (s : State) (hs : s.tx.wantIrq = false) :
    ((drainRound nt)^[n] s).tx.wantIrq = true ↔
      ∃ j, j < n ∧ (txStep (forgetRequest ((drainRound nt)^[j] s))).tx.wantIrq = true := by
  induction n with
  | zero => simp [hs]
  | succ n ih =>
    have hlast : ((drainRound nt)^[n + 1] s).tx.wantIrq = (txStep ((drainRound nt)^[n] s)).tx.wantIrq := by
      rw [Function.iterate_succ_apply']
      rfl
    rw [hlast, txStep_wantIrq, Bool.or_eq_true, ih, Nat.exists_lt_succ_right, or_comm]

/-! ### What the rounds and the end of a drain leave unchanged -/

/-- A drain leaves the counter, the PHY, the fill, the response and the environment alone, and the ports only gain
events. -/
structure DrainFrame (s t : State) : Prop where
  rxDropCount : t.rxDropCount = s.rxDropCount
  phy0 : t.phy0 = s.phy0
  bus : t.bus = s.bus
  rx : t.rx = s.rx
  mac : t.mac = s.mac
  holes : t.holes = s.holes
  inbox : t.inbox = s.inbox
  out : s.out <+: t.out

/-- A round leaves the interrupt line and its holdoff alone as well. -/
structure RoundFrame (s t : State) : Prop extends DrainFrame s t where
  irqLine : t.irqLine = s.irqLine
  itrHoldoff : t.itrHoldoff = s.itrHoldoff

theorem DrainFrame.trans {s t u : State} (h : DrainFrame s t) (k : DrainFrame t u) : DrainFrame s u :=
  ⟨k.rxDropCount.trans h.rxDropCount, k.phy0.trans h.phy0, k.bus.trans h.bus, k.rx.trans h.rx, k.mac.trans h.mac,
    k.holes.trans h.holes, k.inbox.trans h.inbox, h.out.trans k.out⟩

theorem RoundFrame.trans {s t u : State} (h : RoundFrame s t) (k : RoundFrame t u) : RoundFrame s u :=
  ⟨h.toDrainFrame.trans k.toDrainFrame, k.irqLine.trans h.irqLine, k.itrHoldoff.trans h.itrHoldoff⟩

theorem DrainFrame.refl (s : State) : DrainFrame s s := ⟨rfl, rfl, rfl, rfl, rfl, rfl, rfl, ⟨[], List.append_nil _⟩⟩

theorem RoundFrame.refl (s : State) : RoundFrame s s := ⟨.refl s, rfl, rfl⟩

/-- The state after a drain, field by field. -/
theorem DrainFrame.eq {s t : State} (h : DrainFrame s t) :
    ∃ evs, t =
      { s with
        regs := t.regs, irqLine := t.irqLine, itrHoldoff := t.itrHoldoff, txctx := t.txctx, tx := t.tx
        mem := t.mem, out := s.out ++ evs } := by
  obtain ⟨evs, hout⟩ := h.out
  refine ⟨evs, ?_⟩
  rw [hout, ← h.rxDropCount, ← h.phy0, ← h.bus, ← h.rx, ← h.mac, ← h.holes, ← h.inbox]

theorem txStep_out (s : State) : s.out <+: (txStep s).out := by
  rcases txStep_cases s with ⟨_, e⟩ | ⟨_, e⟩ <;> rw [e]
  · exact List.IsPrefix.trans (l₂ := (s.emit _).out) ⟨_, rfl⟩ (runTxd_out _ _)
  · exact ⟨_, (List.append_assoc _ _ _).symm⟩

/-- A step stores nothing but the status byte of the descriptor at the head. -/
theorem txStep_read_other (s : State) (k : Nat) (h : k ≠ (txDescAddr s + 12#64).toNat) :
    Memory.read (txStep s).mem k = Memory.read s.mem k := by
  rcases txStep_cases s with ⟨_, e⟩ | ⟨_, e⟩ <;> rw [e]
  · exact runTxd_read_other _ _ k h
  · rfl

theorem txStep_roundFrame (s : State) : RoundFrame s (txStep s) := by
  have hblock := txStep_sameBlock s
  exact ⟨⟨hblock.rxDropCount, hblock.phy0, hblock.bus, (txStep_txFrame s).rx, hblock.mac, hblock.holes, hblock.inbox,
    txStep_out s⟩, hblock.irqLine, hblock.itrHoldoff⟩

theorem setReg_roundFrame (r : Reg) (v : Word) (s : State) : RoundFrame s (s.setReg r v) :=
  ⟨⟨rfl, rfl, rfl, rfl, rfl, rfl, rfl, ⟨[], List.append_nil _⟩⟩, rfl, rfl⟩

theorem drainRound_roundFrame (nt : Nat) (s : State) : RoundFrame s (drainRound nt s) :=
  (txStep_roundFrame s).trans (setReg_roundFrame .tdh _ (txStep s))

theorem drainRounds_roundFrame (nt n : Nat) (s : State) : RoundFrame s ((drainRound nt)^[n] s) := by
  induction n with
  | zero => exact .refl s
  | succ n ih =>
    rw [Function.iterate_succ_apply']
    exact ih.trans (drainRound_roundFrame nt _)

/-- The rounds store nothing but the status bytes of the descriptors they run (44_transmit.md R258). -/
theorem drainRounds_read_other {nt : Nat} {s : State} (hhead : txHead s < nt) (hn : nt ≤ 2 ^ 32) (n k : Nat)
    (hk : ∀ j, j < n → k ≠ (descAddr (tdba s) ((txHead s + j) % nt) + 12#64).toNat) :
    Memory.read ((drainRound nt)^[n] s).mem k = Memory.read s.mem k := by
  induction n with
  | zero => rfl
  | succ n ih =>
    have hlast := hk n (Nat.lt_succ_self n)
    rw [← drainRounds_descAddr hhead hn] at hlast
    rw [Function.iterate_succ_apply', ← ih fun j hj => hk j (Nat.lt_succ_of_lt hj)]
    exact txStep_read_other _ k hlast

theorem evaluate_out (s : State) : s.out <+: (evaluate s).out := by
  rcases evaluate_cases s with ⟨_, _, _, e⟩ | ⟨_, _, e⟩ | ⟨_, _, e⟩ <;> rw [e]
  · exact ⟨_, rfl⟩
  · exact ⟨_, rfl⟩

theorem raiseCause_drainFrame (bits : Word) (s : State) : DrainFrame s (raiseCause bits s) :=
  ⟨raiseCause_rxDropCount bits s, raiseCause_phy0 bits s, raiseCause_bus bits s, raiseCause_rx bits s,
    raiseCause_mac bits s, raiseCause_holes bits s, raiseCause_inbox bits s,
    evaluate_out (s.setReg .icr (s.reg .icr ||| bits))⟩

theorem endDrain_of_quiet {s : State} (h : s.tx.wantIrq = false) : endDrain s = { s with tx := TxAsm.fresh } := by
  rw [endDrain, h]
  rfl

theorem endDrain_of_requested {s : State} (h : s.tx.wantIrq = true) :
    endDrain s = raiseCause causeTxdw { s with tx := TxAsm.fresh } := if_pos h

theorem endDrain_drainFrame (s : State) : DrainFrame s (endDrain s) := by
  cases h : s.tx.wantIrq
  · rw [endDrain_of_quiet h]
    exact ⟨rfl, rfl, rfl, rfl, rfl, rfl, rfl, ⟨[], List.append_nil _⟩⟩
  · rw [endDrain_of_requested h]
    exact DrainFrame.trans (t := { s with tx := TxAsm.fresh }) ⟨rfl, rfl, rfl, rfl, rfl, rfl, rfl, ⟨[], List.append_nil _⟩⟩
      (raiseCause_drainFrame _ _)

@[simp] theorem endDrain_mem (s : State) : (endDrain s).mem = s.mem := by
  unfold endDrain
  split
  · exact raiseCause_mem _ _
  · rfl

@[simp] theorem endDrain_tx (s : State) : (endDrain s).tx = TxAsm.fresh := by
  unfold endDrain
  split
  · exact raiseCause_tx _ _
  · rfl

/-! ### A drain of any number of descriptors -/

/-- The rounds as a fold over the places that the head passes. -/
theorem foldl_range_eq_drainRounds {nt : Nat} {s : State} (hhead : txHead s < nt) (hn : nt ≤ 2 ^ 32) (j : Nat) :
    (List.range j).foldl (fun u k => (txStep u).setReg .tdh (BitVec.ofNat 32 ((txHead s + k + 1) % nt))) s =
      (drainRound nt)^[j] s := by
  induction j with
  | zero => rfl
  | succ j ih =>
    have hj : txHead (txStep ((drainRound nt)^[j] s)) = (txHead s + j) % nt := by
      rw [txHead_congr (reg_congr (txStep_sameBlock _).regs .tdh), drainRounds_head hhead hn]
    rw [List.range_succ, List.foldl_append, ih, Function.iterate_succ_apply', drainRound, advanceTdh, hj,
      Nat.mod_add_mod]
    rfl

/-- Settles O42: the rounds of the statement are those of the loop, and each clause follows the rounds. -/
theorem drainHeadMeetsTail : Obligations.DrainHeadMeetsTail := by
  intro s wv be tdt tail nt n rounds ended hhead htail
  have hcount : nt ≤ 2 ^ 32 := (BitVec.isLt _).le
  have hstart : txHead (drainStart wv be s) < nt := hhead
  have hrounds (j : Nat) : rounds j = (drainRound nt)^[j] (drainStart wv be s) :=
    foldl_range_eq_drainRounds hstart hcount j
  have hexec : exec (.wrTdt wv be) s = .next (endDrain (rounds n)) := by
    rw [hrounds]
    exact exec_wrTdt_of_usable hhead htail rfl
  have hregs : (rounds n).regs = { s.regs with tdt := tdt, tdh := BitVec.ofNat 32 tail } := by
    obtain ⟨-, hmeet, -⟩ := places_to_tail hhead htail (n := n) rfl
    rw [hrounds, drainRounds_regs hstart hcount, ← hmeet]
    rfl
  have hframe : RoundFrame (drainStart wv be s) (rounds n) := by
    rw [hrounds]
    exact drainRounds_roundFrame nt n _
  obtain ⟨evs, heq⟩ := DrainFrame.eq (hframe.toDrainFrame.trans (endDrain_drainFrame _))
  rw [endDrain_tx] at heq
  refine ⟨hexec, ?_, _, evs, hexec, heq, fun hquiet => ?_, fun hreq => ?_, fun k hk => ?_⟩
  · simp only [hrounds]
    exact drainRounds_wantIrq nt n _ rfl
  · rw [endDrain_of_quiet hquiet]
    exact ⟨hregs, hframe.irqLine, hframe.itrHoldoff⟩
  · rw [endDrain_of_requested hreq, raiseCause_regs, State.reg, hregs]
    rfl
  · rw [endDrain_mem, hrounds]
    exact drainRounds_read_other hstart hcount n k hk

end Sys2Proof.Machine
end

section
/-! SUPPORT. The frames that a drain sends: the proof of the statement about descriptors grouped into packets
(44_transmit.md R251 to R257, R261). -/

namespace Sys2Proof.Machine

/-! ### What only the assembly and the ports see -/

theorem sentFrames_append (a b : List PortEvent) : sentFrames (a ++ b) = sentFrames a ++ sentFrames b := by
  induction a with
  | nil => rfl
  | cons e a ih => cases e <;> simp [sentFrames, ih]

/-- From `s` to `t` the frames `fs` are sent, and nothing changes but registers, the assembly and the ports. -/
structure Sends (s t : State) (fs : List (List Byte)) : Prop where
  eq : t = { s with regs := t.regs, tx := t.tx, out := t.out }
  sent : sentFrames t.out = sentFrames s.out ++ fs

theorem Sends.trans {s t u : State} {fs gs : List (List Byte)} (h : Sends s t fs) (k : Sends t u gs) :
    Sends s u (fs ++ gs) :=
  ⟨k.eq.trans (by rw [h.eq]), by rw [k.sent, h.sent, List.append_assoc]⟩

theorem Sends.mem {s t : State} {fs : List (List Byte)} (h : Sends s t fs) : t.mem = s.mem := by rw [h.eq]

theorem Sends.holes {s t : State} {fs : List (List Byte)} (h : Sends s t fs) : t.holes = s.holes := by rw [h.eq]

theorem emit_memRead_sends (a : Addr) (n : Nat) (ok : Bool) (s : State) : Sends s (s.emit (.memRead a n ok)) [] :=
  ⟨rfl, sentFrames_append _ _⟩

theorem setReg_sends (r : Reg) (v : Word) (s : State) : Sends s (s.setReg r v) [] := ⟨rfl, (List.append_nil _).symm⟩

/-! ### A packet without offload -/

/-- The assembly of a packet that is neither poisoned nor offloaded and asks for no interrupt, with the bytes
gathered. -/
structure PlainPacket (bytes : List Byte) (a : TxAsm) : Prop where
  asm : a.asm = bytes
  poison : a.poison = false
  kind : a.firstKind ≠ some .data
  wantIrq : a.wantIrq = false

theorem plainPacket_fresh : PlainPacket [] TxAsm.fresh := ⟨rfl, rfl, by decide, rfl⟩

theorem PlainPacket.started {bytes : List Byte} {a : TxAsm} (h : PlainPacket bytes a) :
    PlainPacket bytes (startedAsm .legacy false 0#8 a) := by
  obtain ⟨hasm, hpoison, hwant⟩ := startedAsm_sameBytes .legacy false 0#8 a
  refine ⟨hasm.trans h.asm, hpoison.trans h.poison, ?_, hwant.trans h.wantIrq⟩
  unfold startedAsm
  split
  · nofun
  · exact h.kind

/-- The buffer of a descriptor. -/
def bufferOf (m : Memory) (d : LegacyDesc) : List Byte := Memory.readRange m d.addr.toNat d.length.toNat

/-- A buffer that can be read, in a packet with room for it, is appended; an empty one is not read
(44_transmit.md R252). -/
theorem gatherBuffer_plain {bytes : List Byte} {s : State} {addr : Addr} {len : Nat} (hp : PlainPacket bytes s.tx)
    (hm : len ≠ 0 → mappable s.holes addr len = true) (hfits : bytes.length + len ≤ Config.txFrameMax) :
    ∃ t, gatherBuffer addr len s = (false, t) ∧ Sends s t [] ∧
      PlainPacket (bytes ++ Memory.readRange s.mem addr.toNat len) t.tx := by
  obtain ⟨rfl, hpoison, hkind, hwant⟩ := hp
  by_cases h0 : len = 0
  · subst h0
    exact ⟨s, rfl, ⟨rfl, (List.append_nil _).symm⟩, (List.append_nil _).symm, hpoison, hkind, hwant⟩
  · refine ⟨_, gatherBuffer_of_fits h0 (hm h0) hpoison hfits, ⟨rfl, ?_⟩, rfl, hpoison, hkind, hwant⟩
    exact sentFrames_append _ _

/-- What the end of a packet sends, if a descriptor ends it: a frame that is not empty (44_transmit.md R255, R257). -/
def packetAtEnd (eop : Bool) (bytes : List Byte) : List (List Byte) := if eop && !bytes.isEmpty then [bytes] else []

/-- What the packet holds after a descriptor. -/
def bytesAfter (eop : Bool) (bytes : List Byte) : List Byte := if eop then [] else bytes

theorem groupPackets_cons (bytes b : List Byte) (eop : Bool) (rest : List (Bool × List Byte)) :
    groupPackets bytes ((eop, b) :: rest) =
      packetAtEnd eop (bytes ++ b) ++ groupPackets (bytesAfter eop (bytes ++ b)) rest := by
  rw [groupPackets]
  cases eop
  · rfl
  · cases h : (bytes ++ b).isEmpty
    · rw [packetAtEnd, h]
      rfl
    · rw [packetAtEnd, h]
      rfl

/-- A packet without offload is one frame: the bytes gathered (45_offload.md R284). -/
theorem packetFrames_plain {bytes : List Byte} {a : TxAsm} (c : TxCtx) (h : PlainPacket bytes a) :
    packetFrames c a none = ([bytes], false) := by
  rw [packetFrames, if_neg h.kind, h.asm]

theorem endPacket_plain {bytes : List Byte} {s : State} (eop : Bool) (hp : PlainPacket bytes s.tx) :
    ∃ t, endPacket eop none s = (false, t) ∧ Sends s t (packetAtEnd eop bytes) ∧
      PlainPacket (bytesAfter eop bytes) t.tx := by
  cases eop
  · exact ⟨s, rfl, ⟨rfl, (List.append_nil _).symm⟩, hp⟩
  · have hcleared : PlainPacket [] { TxAsm.fresh with wantIrq := s.tx.wantIrq } := ⟨rfl, rfl, nofun, hp.wantIrq⟩
    by_cases hnil : bytes = []
    · refine ⟨_, endPacket_of_dropped none (.inr (hp.asm.trans hnil)), ⟨rfl, ?_⟩, hcleared⟩
      rw [hnil]
      exact (List.append_nil _).symm
    · have hne : s.tx.asm ≠ [] := fun h => hnil (hp.asm.symm.trans h)
      have hsent : packetAtEnd true bytes = [bytes] := if_pos (by simpa using hnil)
      have hend : endPacket true none s =
          (false, { s with
            tx := { TxAsm.fresh with wantIrq := s.tx.wantIrq }
            out := s.out ++ [.send bytes] }) := by
        simp [endPacket_of_sent none hp.poison hne, packetFrames_plain _ hp]
      refine ⟨_, hend, ⟨rfl, ?_⟩, hcleared⟩
      rw [hsent]
      exact sentFrames_append _ _

/-! ### A step at a readable descriptor -/

/-- The descriptor at address `a` can be fetched and is LEGACY without RS and IC, and its buffer can be read. -/
def ReadableDesc (s : State) (a : Addr) (d : LegacyDesc) : Prop :=
  mappable s.holes a Config.descSize = true ∧
    decodeTxd (descInt (Memory.readRange s.mem a.toNat Config.descSize)) = .legacy d ∧ d.rs = false ∧ d.ic = false ∧
    (d.length ≠ 0#16 → mappable s.holes d.addr d.length.toNat = true)

theorem readableDesc_congr {s t : State} (hholes : t.holes = s.holes) (hmem : t.mem = s.mem) (a : Addr)
    (d : LegacyDesc) : ReadableDesc t a d ↔ ReadableDesc s a d := by
  rw [ReadableDesc, ReadableDesc, hholes, hmem]

/-- Such a descriptor appends its buffer to the packet and, with EOP, sends the frame; it reports nothing. -/
theorem runTxd_plain {bytes : List Byte} {s : State} {d : LegacyDesc} (hp : PlainPacket bytes s.tx)
    (hrs : d.rs = false) (hic : d.ic = false) (hm : d.length ≠ 0#16 → mappable s.holes d.addr d.length.toNat = true)
    (hfits : bytes.length + d.length.toNat ≤ Config.txFrameMax) :
    Sends s (runTxd (.legacy d) s) (packetAtEnd d.eop (bytes ++ bufferOf s.mem d)) ∧
      PlainPacket (bytesAfter d.eop (bytes ++ bufferOf s.mem d)) (runTxd (.legacy d) s).tx := by
  have hmap (h0 : d.length.toNat ≠ 0) : mappable s.holes d.addr d.length.toNat = true :=
    hm fun h => h0 (congrArg BitVec.toNat h)
  obtain ⟨g, hg, hgs, hgp⟩ := gatherBuffer_plain
    (s := { s with tx := startedAsm .legacy false 0#8 s.tx }) hp.started hmap hfits
  obtain ⟨e, he, hes, hep⟩ := endPacket_plain d.eop hgp
  have hrun : runTxd (.legacy d) s = e := by
    simp only [runTxd, txLegacy_eq_runBuffer, runBuffer, hic, Bool.false_eq_true, if_false, hg, he, hrs,
      finishDesc_of_silent]
  have hstart : Sends s { s with tx := startedAsm .legacy false 0#8 s.tx } [] := ⟨rfl, (List.append_nil _).symm⟩
  rw [hrun]
  exact ⟨(hstart.trans hgs).trans hes, hep⟩

/-- A round of the drain at such a descriptor. -/
theorem drainRound_plain {bytes : List Byte} {s : State} {d : LegacyDesc} (nt : Nat) (hp : PlainPacket bytes s.tx)
    (hd : ReadableDesc s (txDescAddr s) d) (hfits : bytes.length + d.length.toNat ≤ Config.txFrameMax) :
    Sends s (drainRound nt s) (packetAtEnd d.eop (bytes ++ bufferOf s.mem d)) ∧
      PlainPacket (bytesAfter d.eop (bytes ++ bufferOf s.mem d)) (drainRound nt s).tx := by
  obtain ⟨hfetch, hdecode, hrs, hic, hm⟩ := hd
  rcases txStep_cases s with ⟨_, e⟩ | ⟨hno, _⟩
  · rw [hdecode] at e
    obtain ⟨hsends, hplain⟩ :=
      runTxd_plain (s := s.emit (.memRead (txDescAddr s) Config.descSize true)) hp hrs hic hm hfits
    rw [← e] at hsends hplain
    have hround := ((emit_memRead_sends _ _ _ s).trans hsends).trans
      (setReg_sends .tdh (BitVec.ofNat 32 ((txHead (txStep s) + 1) % nt)) (txStep s))
    rw [List.append_nil] at hround
    exact ⟨hround, hplain⟩
  · exact absurd (hfetch.symm.trans hno) (by decide)

/-! ### The rounds at readable descriptors -/

/-- The number of bytes that the buffers of descriptors hold. -/
def bufferBytes (ds : List LegacyDesc) : Nat := (ds.map fun d => d.length.toNat).sum

/-- No packet grows beyond the longest frame, where the packet under assembly holds `k` bytes. -/
def PacketsFit : Nat → List LegacyDesc → Prop
  | _, [] => True
  | k, d :: ds => k + d.length.toNat ≤ Config.txFrameMax ∧ PacketsFit (if d.eop then 0 else k + d.length.toNat) ds

/-- Packets fit if the descriptors up to and including any one fit, counted from the start of its packet: the first
packet has `k` bytes already. -/
theorem packetsFit_of_take (k : Nat) (ds : List LegacyDesc)
    (hfirst : ∀ n, n < ds.length → (∀ d ∈ ds.take n, d.eop = false) →
      k + bufferBytes (ds.take (n + 1)) ≤ Config.txFrameMax)
    (hlater : ∀ j n, j + n < ds.length → (∀ d ∈ (ds.drop j).take n, d.eop = false) →
      bufferBytes ((ds.drop j).take (n + 1)) ≤ Config.txFrameMax) :
    PacketsFit k ds := by
  induction ds generalizing k with
  | nil => trivial
  | cons d ds ih =>
    have hshift (j n : Nat) (hjn : j + n < ds.length) (h : ∀ e ∈ (ds.drop j).take n, e.eop = false) :
        bufferBytes ((ds.drop j).take (n + 1)) ≤ Config.txFrameMax :=
      hlater (j + 1) n (by rw [List.length_cons]; omega) h
    refine ⟨?_, ih _ (fun n hn hnone => ?_) hshift⟩
    · simpa [bufferBytes] using hfirst 0 (Nat.zero_lt_succ _) (by simp)
    · cases heop : d.eop
      · have h := hfirst (n + 1) (Nat.succ_lt_succ hn) (by simpa [heop] using hnone)
        simpa [bufferBytes, Nat.add_assoc] using h
      · simpa using hshift 0 n (by omega) hnone

theorem length_bytesAfter (eop : Bool) (bytes : List Byte) (m : Memory) (d : LegacyDesc) :
    (bytesAfter eop (bytes ++ bufferOf m d)).length = if eop then 0 else bytes.length + d.length.toNat := by
  cases eop
  · simp [bytesAfter, bufferOf, Memory.readRange_length]
  · rfl

/-- The rounds at readable descriptors send their packets, and ask for no interrupt (44_transmit.md R255). -/
theorem drainRounds_send {nt : Nat} (hn : nt ≤ 2 ^ 32) (ds : List LegacyDesc) (bytes : List Byte) (s : State)
    (hhead : txHead s < nt) (hp : PlainPacket bytes s.tx) (hfit : PacketsFit bytes.length ds)
    (hds : ∀ j d, ds[j]? = some d → ReadableDesc s (descAddr (tdba s) ((txHead s + j) % nt)) d) :
    Sends s ((drainRound nt)^[ds.length] s) (groupPackets bytes (ds.map fun d => (d.eop, bufferOf s.mem d))) ∧
      ((drainRound nt)^[ds.length] s).tx.wantIrq = false := by
  induction ds generalizing bytes s with
  | nil => exact ⟨⟨rfl, (List.append_nil _).symm⟩, hp.wantIrq⟩
  | cons d ds ih =>
    obtain ⟨hroom, hrest⟩ := hfit
    have hfirst : ReadableDesc s (txDescAddr s) d := by
      have h := hds 0 d rfl
      rwa [Nat.add_zero, Nat.mod_eq_of_lt hhead] at h
    obtain ⟨hsends, hplain⟩ := drainRound_plain nt hp hfirst hroom
    have hnext : txHead (drainRound nt s) = (txHead s + 1) % nt := drainRounds_head hhead hn 1
    have hbase : tdba (drainRound nt s) = tdba s := tdba_drainRounds nt 1 s
    obtain ⟨hlater, hquiet⟩ := ih (bytesAfter d.eop (bytes ++ bufferOf s.mem d)) (drainRound nt s)
      (by rw [hnext]; exact Nat.mod_lt _ (Nat.zero_lt_of_lt hhead)) hplain (by rwa [length_bytesAfter])
      (fun j e he => by
        rw [hnext, hbase, Nat.mod_add_mod, Nat.add_assoc, Nat.add_comm 1 j,
          readableDesc_congr hsends.holes hsends.mem]
        exact hds (j + 1) e he)
    rw [hsends.mem] at hlater
    rw [List.map_cons, groupPackets_cons]
    exact ⟨hsends.trans hlater, hquiet⟩

/-- Settles O43: the drain's rounds are those at the given descriptors, from a fresh assembly. -/
theorem drainSendsThePackets : Obligations.DrainSendsThePackets := by
  intro s wv be ds tdt tail nt hhead htail hlen hready hfit
  have hpackets : PacketsFit 0 ds :=
    packetsFit_of_take 0 ds
      (fun n hn h => (Nat.zero_add _).trans_le (hfit 0 n (by omega) h)) hfit
  have hcount : nt ≤ 2 ^ 32 := (BitVec.isLt _).le
  obtain ⟨-, hmeet, -⟩ := places_to_tail hhead htail hlen
  obtain ⟨⟨heq, hsent⟩, hquiet⟩ :=
    drainRounds_send hcount ds [] (drainStart wv be s) hhead plainPacket_fresh hpackets hready
  refine ⟨_, (exec_wrTdt_of_usable hhead htail hlen).trans (congrArg _ (endDrain_of_quiet hquiet)), ?_, hsent⟩
  have hregs : ((drainRound nt)^[ds.length] (drainStart wv be s)).regs =
      { s.regs with tdt := tdt, tdh := BitVec.ofNat 32 tail } := by
    rw [drainRounds_regs (s := drainStart wv be s) hhead hcount, ← hmeet]
    rfl
  rw [heq, hregs]
  rfl

end Sys2Proof.Machine
end

section
/-! SUPPORT. Stores into a frame and the checksums inserted into it: the proofs of the statements about the
ones-complement sum, the insertion, the receiver's sum and the LEGACY descriptor's checksum
(45_offload.md R280 to R282, R289). -/

namespace Sys2Proof.Machine

/-! ### A byte sequence that differs from another at some places only -/

/-- `t` is as long as `s` and differs from it at most at the places that `P` names. -/
structure ChangesOnly (P : Nat → Prop) (s t : List Byte) : Prop where
  length : t.length = s.length
  bytes : ∀ m, ¬P m → byteAt t m = byteAt s m

theorem ChangesOnly.refl (P : Nat → Prop) (s : List Byte) : ChangesOnly P s s := ⟨rfl, fun _ _ => rfl⟩

theorem ChangesOnly.mono {P Q : Nat → Prop} {s t : List Byte} (h : ChangesOnly P s t) (hPQ : ∀ m, P m → Q m) :
    ChangesOnly Q s t :=
  ⟨h.length, fun m hm => h.bytes m fun hP => hm (hPQ m hP)⟩

theorem ChangesOnly.trans {P : Nat → Prop} {s t u : List Byte} (h : ChangesOnly P s t) (k : ChangesOnly P t u) :
    ChangesOnly P s u :=
  ⟨k.length.trans h.length, fun m hm => (k.bytes m hm).trans (h.bytes m hm)⟩

theorem ChangesOnly.be16_eq {P : Nat → Prop} {s t : List Byte} (h : ChangesOnly P s t) {j : Nat} (h0 : ¬P j)
    (h1 : ¬P (j + 1)) : be16 t j = be16 s j := by
  rw [be16, be16, h.bytes _ h0, h.bytes _ h1]

theorem getElem?_eq_of_byteAt {s t : List Byte} (hlen : t.length = s.length) {k : Nat}
    (h : byteAt t k = byteAt s k) : t[k]? = s[k]? := by
  rcases Nat.lt_or_ge k s.length with hk | hk
  · have ht : k < t.length := hlen ▸ hk
    simpa [byteAt, List.getD_eq_getElem?_getD, hk, ht] using h
  · rw [List.getElem?_eq_none hk, List.getElem?_eq_none (hlen ▸ hk)]

theorem getElem?_slice (s : List Byte) (a b k : Nat) : (slice s a b)[k]? = if a + k < b then s[a + k]? else none := by
  rw [slice, List.getElem?_drop, List.getElem?_take]

/-- A range that holds none of the changed places is as it was. -/
theorem ChangesOnly.slice_eq {P : Nat → Prop} {s t : List Byte} (h : ChangesOnly P s t) {a b : Nat}
    (hP : ∀ m, a ≤ m → m < b → ¬P m) : slice t a b = slice s a b := by
  refine List.ext_getElem? fun k => ?_
  rw [getElem?_slice, getElem?_slice]
  split
  · next hk => exact getElem?_eq_of_byteAt h.length (h.bytes _ (hP _ (Nat.le_add_right a k) hk))
  · rfl

/-- Beyond the last changed place the sequence is as it was. -/
theorem ChangesOnly.drop_eq {P : Nat → Prop} {s t : List Byte} (h : ChangesOnly P s t) {a : Nat}
    (hP : ∀ m, P m → m < a) : t.drop a = s.drop a := by
  refine List.ext_getElem? fun k => ?_
  rw [List.getElem?_drop, List.getElem?_drop]
  exact getElem?_eq_of_byteAt h.length (h.bytes _ fun hm => absurd (hP _ hm) (by omega))

/-! ### Stores into a byte sequence -/

theorem byteAt_set (s : List Byte) (i k : Nat) (b : Byte) :
    byteAt (s.set i b) k = if i = k ∧ k < s.length then b else byteAt s k := by
  rw [byteAt, byteAt, List.getD_eq_getElem?_getD, List.getD_eq_getElem?_getD, List.getElem?_set]
  split_ifs <;> simp_all

/-- A store changes only the places it covers. -/
theorem overwrite_changesOnly (bs : List Byte) (s : List Byte) (i : Nat) :
    ChangesOnly (fun m => i ≤ m ∧ m < i + bs.length) s (overwrite s i bs) := by
  induction bs generalizing s i with
  | nil => exact .refl _ s
  | cons b bs ih =>
    have hset : ChangesOnly (fun m => i ≤ m ∧ m < i + (b :: bs).length) s (s.set i b) := by
      refine ⟨List.length_set, fun m hm => ?_⟩
      rw [byteAt_set, if_neg]
      rintro ⟨rfl, -⟩
      exact hm ⟨Nat.le_refl i, by simp⟩
    exact hset.trans ((ih (s.set i b) (i + 1)).mono fun m hm => by simp only [List.length_cons]; omega)

/-- A store inside the sequence puts each of its bytes at its place. -/
theorem byteAt_overwrite (bs : List Byte) (s : List Byte) (i j : Nat) (hj : j < bs.length)
    (hfit : i + bs.length ≤ s.length) : byteAt (overwrite s i bs) (i + j) = byteAt bs j := by
  induction bs generalizing s i j with
  | nil => exact absurd hj (Nat.not_lt_zero j)
  | cons b bs ih =>
    rw [List.length_cons] at hj hfit
    cases j with
    | zero =>
      have hrest := (overwrite_changesOnly bs (s.set i b) (i + 1)).bytes i (by omega)
      exact hrest.trans ((byteAt_set s i i b).trans (if_pos ⟨rfl, by omega⟩))
    | succ j =>
      rw [overwrite, show i + (j + 1) = i + 1 + j by omega,
        ih (s.set i b) (i + 1) j (by omega) (by rw [List.length_set]; omega)]
      rfl

theorem putBe16_length (v : Nat) : (putBe16 v).length = 2 := rfl

theorem putBe32_length (v : Nat) : (putBe32 v).length = 4 := rfl

theorem be16_putBe16 (v : Nat) : be16 (putBe16 v) 0 = v % 65536 := by
  simp only [be16, putBe16, byteAt, List.getD_cons_zero, List.getD_cons_succ, BitVec.toNat_ofNat]
  omega

/-- A big-endian 16-bit value stored inside the sequence is read back. -/
theorem be16_overwrite {s : List Byte} {i : Nat} (hfit : i + 2 ≤ s.length) (v : Nat) :
    be16 (overwrite s i (putBe16 v)) i = v % 65536 := by
  have hbyte (j : Nat) (hj : j < 2) := byteAt_overwrite (putBe16 v) s i j hj hfit
  have h0 : byteAt (overwrite s i (putBe16 v)) i = byteAt (putBe16 v) 0 := hbyte 0 (by omega)
  rw [be16, h0, hbyte 1 (by omega)]
  exact be16_putBe16 v

/-- A big-endian 32-bit value is stored as its two halves, which do not overlap. -/
theorem overwrite_putBe32 (s : List Byte) (i v : Nat) :
    overwrite s i (putBe32 v) = overwrite (overwrite s i (putBe16 (v / 65536))) (i + 2) (putBe16 v) := rfl

/-- A big-endian 32-bit value stored inside the sequence is read back. -/
theorem be32_overwrite {s : List Byte} {i : Nat} (hfit : i + 4 ≤ s.length) (v : Nat) :
    be32 (overwrite s i (putBe32 v)) i = v % 2 ^ 32 := by
  have hu : (overwrite s i (putBe16 (v / 65536))).length = s.length := (overwrite_changesOnly _ s i).length
  have hlow := overwrite_changesOnly (putBe16 v) (overwrite s i (putBe16 (v / 65536))) (i + 2)
  rw [overwrite_putBe32, be32, be16_overwrite (by omega), hlow.be16_eq (by omega) (by omega),
    be16_overwrite (by omega)]
  omega

/-! ### The ones-complement sum -/

/-- Any number of rounds from `acc` on is enough (45_offload.md R280): a round above 0xFFFF lowers the sum. -/
theorem foldRounds_of_le {n m acc : Nat} (hn : acc ≤ n) (hm : acc ≤ m) : foldRounds n acc = foldRounds m acc := by
  induction n generalizing m acc with
  | zero =>
    obtain rfl : acc = 0 := by omega
    cases m <;> rfl
  | succ n ih =>
    cases m with
    | zero =>
      obtain rfl : acc = 0 := by omega
      rfl
    | succ m =>
      rw [foldRounds, foldRounds]
      split
      · exact ih (by omega) (by omega)
      · rfl

/-- The loop equation of `Fold` (45_offload.md R280). -/
theorem foldSum_eq (acc : Nat) :
    foldSum acc = if 0xFFFF < acc then foldSum (acc % 65536 + acc / 65536) else acc := by
  cases acc with
  | zero => rfl
  | succ n =>
    rw [foldSum, foldRounds]
    split
    · exact foldRounds_of_le (by omega) (Nat.le_refl _)
    · rfl

/-- `Fold` in closed form: the representative from 1 to 0xFFFF modulo 65535, and 0 for 0 only. -/
theorem foldSum_closed (acc : Nat) : foldSum acc = if acc = 0 then 0 else (acc - 1) % 65535 + 1 := by
  induction acc using Nat.strong_induction_on with
  | _ acc ih =>
    rw [foldSum_eq]
    split
    · next hbig =>
      rw [ih _ (by omega), if_neg (by omega), if_neg (by omega)]
      omega
    · split <;> omega

theorem foldSum_le (acc : Nat) : foldSum acc ≤ 0xFFFF := by
  rw [foldSum_closed]
  split <;> omega

theorem foldSum_mod (acc : Nat) : foldSum acc % 65535 = acc % 65535 := by
  rw [foldSum_closed]
  split <;> omega

theorem foldSum_eq_zero (acc : Nat) : foldSum acc = 0 ↔ acc = 0 := by
  rw [foldSum_closed]
  split <;> omega

theorem ocSum_le (s : List Byte) : ocSum s ≤ 0xFFFF := foldSum_le _

/-- Settles O44: the equations of `Fold` and of the word sum, and the closed form of `Fold`. -/
theorem onesComplementSum : Obligations.OnesComplementSum :=
  ⟨foldSum_eq, rfl, fun _ => rfl, fun _ _ _ => rfl, rfl,
    fun _ => ⟨rfl, ocSum_le _, foldSum_mod _, foldSum_eq_zero _⟩⟩

/-! ### The insertion of a checksum -/

/-- The complement of a sum, 0 as 0xFFFF (45_offload.md R281). -/
def complementSum (c : Nat) : Nat := if 0xFFFF - c = 0 then 0xFFFF else 0xFFFF - c

theorem csumValue_toNat (s : List Byte) : (csumValue s).toNat = complementSum (ocSum s) := by
  have hle := ocSum_le s
  have hc : (~~~(BitVec.ofNat 16 (ocSum s))).toNat = 0xFFFF - ocSum s := by
    rw [BitVec.toNat_not, BitVec.toNat_ofNat, Nat.mod_eq_of_lt (by omega)]
  have hzero : ~~~(BitVec.ofNat 16 (ocSum s)) = 0x0000#16 ↔ 0xFFFF - ocSum s = 0 := by
    rw [← BitVec.toNat_inj, hc]
    rfl
  simp only [csumValue, complementSum, hzero]
  split
  · rfl
  · exact hc

theorem csumEnd_le (n cse : Nat) : csumEnd n cse ≤ n := by
  rw [csumEnd]
  split <;> omega

theorem csumInsert_of_inside {f : List Byte} {css cso cse : Nat}
    (h : css < csumEnd f.length cse ∧ cso + 2 ≤ f.length) :
    csumInsert f css cso cse =
      (overwrite f cso (putBe16 (csumValue (slice f css (csumEnd f.length cse))).toNat), false) := if_pos h

theorem csumInsert_of_outside {f : List Byte} {css cso cse : Nat}
    (h : ¬(css < csumEnd f.length cse ∧ cso + 2 ≤ f.length)) : csumInsert f css cso cse = (f, true) := if_neg h

/-- A checksum inside the frame does not fail. -/
theorem csumInsert_eq_of_inside {f : List Byte} {css cso cse : Nat}
    (h : css < csumEnd f.length cse ∧ cso + 2 ≤ f.length) :
    csumInsert f css cso cse = ((csumInsert f css cso cse).1, false) :=
  Prod.ext rfl (by rw [csumInsert_of_inside h])

/-- Inserted or not, a checksum changes at most the two bytes at its offset. -/
theorem csumInsert_changesOnly (f : List Byte) (css cso cse : Nat) :
    ChangesOnly (fun m => cso ≤ m ∧ m < cso + 2) f (csumInsert f css cso cse).1 := by
  by_cases h : css < csumEnd f.length cse ∧ cso + 2 ≤ f.length
  · rw [csumInsert_of_inside h]
    exact overwrite_changesOnly (putBe16 _) f cso
  · rw [csumInsert_of_outside h]
    exact .refl _ f

/-- An inserted checksum is the complement of the sum of its range. -/
theorem be16_csumInsert {f : List Byte} {css cso cse : Nat}
    (h : css < csumEnd f.length cse ∧ cso + 2 ≤ f.length) :
    be16 (csumInsert f css cso cse).1 cso = complementSum (ocSum (slice f css (csumEnd f.length cse))) := by
  rw [csumInsert_of_inside h, be16_overwrite h.2, Nat.mod_eq_of_lt (BitVec.isLt _), csumValue_toNat]

/-- Settles O45: outside the frame nothing is stored, inside it the two bytes of the complement are. -/
theorem checksumInsertion : Obligations.ChecksumInsertion := by
  intro f css cso cse stop c
  have hchange := csumInsert_changesOnly f css cso cse
  exact ⟨csumInsert_of_outside, fun hinside =>
    ⟨_, csumInsert_eq_of_inside hinside, hchange.length, be16_csumInsert hinside,
      fun k hk hk' => hchange.bytes k (by omega)⟩⟩

/-! ### The receiver's sum -/

/-- An even number of bytes is a number of whole words. -/
theorem wordSum_append {a : List Byte} (heven : a.length % 2 = 0) (b : List Byte) :
    wordSum (a ++ b) = wordSum a + wordSum b := by
  induction a using wordSum.induct with
  | case1 => exact (Nat.zero_add _).symm
  | case2 hi => cases heven
  | case3 hi lo rest ih =>
    rw [List.cons_append, List.cons_append, wordSum, wordSum, ih (by simp only [List.length_cons] at heven; omega)]
    omega

theorem slice_append_slice (s : List Byte) {a j b : Nat} (haj : a ≤ j) (hjb : j ≤ b) :
    slice s a j ++ slice s j b = slice s a b := by
  simp only [slice, List.drop_take]
  rw [show b - a = (j - a) + (b - j) by omega, List.take_add, List.drop_drop, Nat.add_sub_cancel' haj]

theorem slice_length {s : List Byte} {a b : Nat} (hb : b ≤ s.length) : (slice s a b).length = b - a := by
  rw [slice, List.length_drop, List.length_take, Nat.min_eq_left hb]

theorem wordSum_slice_two {s : List Byte} {j : Nat} (hj : j + 2 ≤ s.length) :
    wordSum (slice s j (j + 2)) = be16 s j := by
  have h0 : j < s.length := by omega
  have h1 : j + 1 < s.length := by omega
  have hslice : slice s j (j + 2) = [s[j], s[j + 1]] := by
    rw [slice, List.drop_take, List.drop_eq_getElem_cons h0, List.drop_eq_getElem_cons h1, Nat.add_sub_cancel_left]
    rfl
  rw [hslice, be16, byteAt, byteAt, List.getD_eq_getElem _ _ h0, List.getD_eq_getElem _ _ h1]
  rfl

/-- The word at an even distance from the start of a range enters its sum as that word. -/
theorem wordSum_slice_split {s : List Byte} {a j b : Nat} (haj : a ≤ j) (hjb : j + 2 ≤ b) (hb : b ≤ s.length)
    (heven : (j - a) % 2 = 0) :
    wordSum (slice s a b) = wordSum (slice s a j) + be16 s j + wordSum (slice s (j + 2) b) := by
  have hleft : (slice s a j).length % 2 = 0 := by rw [slice_length (by omega), heven]
  have hmid : (slice s j (j + 2)).length % 2 = 0 := by
    rw [slice_length (by omega), Nat.add_sub_cancel_left]
  rw [← slice_append_slice s haj (by omega), ← slice_append_slice s (Nat.le_add_right j 2) hjb,
    wordSum_append hleft, wordSum_append hmid, wordSum_slice_two (by omega), Nat.add_assoc]

/-- A sum and its complement fold to 0xFFFF. -/
theorem foldSum_add_complement (n : Nat) : foldSum (n + complementSum (foldSum n)) = 0xFFFF := by
  rw [foldSum_closed, complementSum, foldSum_closed]
  split_ifs <;> omega

/-- Settles O46: the store adds the complement of the range's sum to that sum, as the word that was 0. -/
theorem insertedChecksumVerifies : Obligations.InsertedChecksumVerifies := by
  intro f css cso cse stop hstart hend heven hzero hzero'
  have hstop : stop ≤ f.length := csumEnd_le f.length cse
  have hinside : css < csumEnd f.length cse ∧ cso + 2 ≤ f.length :=
    ⟨show css < stop by omega, by omega⟩
  let g := (csumInsert f css cso cse).1
  have hchange : ChangesOnly (fun m => cso ≤ m ∧ m < cso + 2) f g := csumInsert_changesOnly f css cso cse
  have hfield : be16 g cso = complementSum (ocSum (slice f css stop)) := be16_csumInsert hinside
  have hf : wordSum (slice f css stop) = wordSum (slice f css cso) + wordSum (slice f (cso + 2) stop) := by
    rw [wordSum_slice_split hstart hend hstop heven, be16, hzero, hzero']
    rfl
  have hg : wordSum (slice g css stop) = wordSum (slice f css stop) + complementSum (ocSum (slice f css stop)) := by
    rw [wordSum_slice_split hstart hend (hchange.length.symm ▸ hstop) heven, hfield,
      hchange.slice_eq (fun m _ hm => by omega), hchange.slice_eq (fun m hm _ => by omega), hf]
    omega
  refine ⟨g, csumInsert_eq_of_inside hinside, ?_⟩
  calc ocSum (slice g css stop) = foldSum (wordSum (slice g css stop)) := rfl
    _ = foldSum (wordSum (slice f css stop) + complementSum (foldSum (wordSum (slice f css stop)))) := by rw [hg]; rfl
    _ = 0xFFFF := foldSum_add_complement _

/-! ### The checksum of a LEGACY descriptor -/

/-- The kind of a packet once a LEGACY descriptor has started it or gone on with it (44_transmit.md R251). -/
theorem startedAsm_legacy_ne_data {a : TxAsm} (h : a.firstKind ≠ some .data) (tse : Bool) (popts : Byte) :
    (startedAsm .legacy tse popts a).firstKind ≠ some .data := by
  unfold startedAsm
  split
  · exact fun heq => nomatch heq
  · exact h

/-- The ending LEGACY descriptor's checksum goes into a packet that DATA has not begun (45_offload.md R282, R284). -/
theorem exec_txdLegacy_ic {s : State} {d : LegacyDesc} (heop : d.eop = true) (hic : d.ic = true)
    (hlen : d.length ≠ 0#16) (hm : mappable s.holes d.addr d.length.toNat = true) (hp : s.tx.poison = false)
    (hkind : s.tx.firstKind ≠ some .data) (hfits : s.tx.asm.length + d.length.toNat ≤ 65536) {g : List Byte}
    {offerr : Bool}
    (hins : csumInsert (s.tx.asm ++ Memory.readRange s.mem d.addr.toNat d.length.toNat) d.css.toNat d.cso.toNat 0 =
      (g, offerr)) :
    exec (.txdLegacy d) s =
      .next (finishDesc d.rs d.rsv false offerr
        { s with
          tx := { TxAsm.fresh with wantIrq := s.tx.wantIrq }
          out := s.out ++ ([.memRead d.addr d.length.toNat true] ++
            ((if offerr then [.raised (.offload .txOffload)] else []) ++ [.send g])) }) := by
  have h0 : d.length.toNat ≠ 0 := fun h => hlen (BitVec.eq_of_toNat_eq h)
  obtain ⟨-, -, -, -, -, hsent⟩ :=
    endOfPacketSendsTheFrame s (.txdLegacy d) (startedAsm .legacy false 0#8 s.tx) (some (d.css, d.cso)) d.addr
      d.length.toNat d.rs d.rsv (.inl ⟨d, rfl, heop, rfl, rfl, rfl, rfl, (if_pos hic).symm, rfl⟩)
  simpa only [if_neg (startedAsm_legacy_ne_data hkind false 0#8), hins, List.map_cons, List.map_nil,
    List.append_assoc] using hsent h0 hm hp hfits

/-- The summed range of a LEGACY descriptor runs to the end of the frame. -/
theorem slice_csumEnd_zero (f : List Byte) (a : Nat) : slice f a (csumEnd f.length 0) = f.drop a :=
  congrArg (List.drop a) List.take_length

/-- Settles O37: the gathered buffer ends the packet, whose one frame is that of `csumInsert`. -/
theorem legacyChecksumInsertion : Obligations.LegacyChecksumInsertion := by
  intro s d heop hic hlen hm hp hkind hfits f cleared
  refine ⟨fun hinside => ?_, fun houtside => ?_⟩
  · have hins := csumInsert_of_inside (cse := 0) hinside
    rw [slice_csumEnd_zero] at hins
    exact exec_txdLegacy_ic heop hic hlen hm hp hkind hfits hins
  · exact exec_txdLegacy_ic heop hic hlen hm hp hkind hfits (csumInsert_of_outside (cse := 0) houtside)

end Sys2Proof.Machine
end

section
/-! SUPPORT. Segmentation as a function of the directive and the frame: the proofs of the statements about the segments'
payload and their header fields (45_offload.md R285 to R288). -/

namespace Sys2Proof.Machine

/-! ### Bytes of a beginning and of an index list -/

theorem byteAt_take (f : List Byte) {m n : Nat} (h : m < n) : byteAt (f.take n) m = byteAt f m := by
  rw [byteAt, byteAt, List.getD_eq_getElem?_getD, List.getElem?_take_of_lt h, ← List.getD_eq_getElem?_getD]

theorem be16_take (f : List Byte) {j n : Nat} (h : j + 2 ≤ n) : be16 (f.take n) j = be16 f j := by
  rw [be16, be16, byteAt_take f (by omega), byteAt_take f (by omega)]

theorem be32_take (f : List Byte) {j n : Nat} (h : j + 4 ≤ n) : be32 (f.take n) j = be32 f j := by
  rw [be32, be32, be16_take f (by omega), be16_take f (by omega)]

theorem eq_of_getElem?_map_range {α : Type} {F : Nat → α} {n k : Nat} {x : α}
    (h : ((List.range n).map F)[k]? = some x) : x = F k := by
  obtain ⟨hk, rfl⟩ := List.getElem?_eq_some_iff.mp h
  rw [List.getElem_map, List.getElem_range]

/-! ### The directive -/

/-- The conditions of a well-formed directive (45_offload.md R285). -/
theorem segmentValid_eq_true (c : TxCtx) (popts : Byte) (n : Nat) :
    segmentValid c popts n = true ↔
      1 ≤ c.mss.toNat ∧ (1 ≤ c.hdrlen.toNat ∧ c.hdrlen.toNat ≤ n) ∧ c.ipcss.toNat + 6 ≤ c.hdrlen.toNat ∧
        (c.tcp = true → c.tucss.toNat + 14 ≤ c.hdrlen.toNat) ∧
        (c.tcp = false → c.tucss.toNat + 6 ≤ c.hdrlen.toNat) ∧
        (popts.getLsbD 1 = true → c.tucso.toNat + 2 ≤ c.hdrlen.toNat) ∧
        (popts.getLsbD 0 = true → c.ipcso.toNat + 2 ≤ c.hdrlen.toNat) := by
  have himp (b : Bool) (p : Prop) [Decidable p] : (!b || decide p) = true ↔ (b = true → p) := by cases b <;> simp
  simp only [segmentValid, Bool.and_eq_true, decide_eq_true_eq, himp, txsm, ixsm, and_assoc]
  cases c.tcp <;> simp

/-- The number of segments (45_offload.md R286). -/
def segmentCount (c : TxCtx) (f : List Byte) : Nat := ceilDiv1 (f.length - c.hdrlen.toNat) c.mss.toNat

theorem segment_of_valid {c : TxCtx} {popts : Byte} {f : List Byte} (h : segmentValid c popts f.length = true) :
    segment c popts f =
      ((List.range (segmentCount c f)).map fun k => (segmentFrame c popts f (segmentCount c f) k).1,
        (List.range (segmentCount c f)).any fun k => (segmentFrame c popts f (segmentCount c f) k).2) := by
  rw [segment, if_pos h]
  dsimp only
  rw [List.map_map, List.any_map]
  rfl

theorem segment_of_invalid {c : TxCtx} {popts : Byte} {f : List Byte} (h : ¬segmentValid c popts f.length = true) :
    segment c popts f = ([f], true) := if_neg h

/-! ### A segment before its fix-ups -/

/-- `g_k`: the original header and chunk `k` of the payload (45_offload.md R286). -/
def rawSegment (c : TxCtx) (f : List Byte) (k : Nat) : List Byte :=
  f.take c.hdrlen.toNat ++ ((f.drop c.hdrlen.toNat).drop (k * c.mss.toNat)).take c.mss.toNat

/-- `g_k` with the IP fields of its place (45_offload.md R287). -/
def ipFixed (c : TxCtx) (f : List Byte) (k : Nat) : List Byte :=
  fixIp c (f.take c.hdrlen.toNat) k (rawSegment c f k).length (rawSegment c f k)

/-- `g_k` with the IP and transport fields of its place (45_offload.md R287). -/
def transportFixed (c : TxCtx) (f : List Byte) (nseg k : Nat) : List Byte :=
  fixTransport c (f.take c.hdrlen.toNat) k nseg (rawSegment c f k).length (ipFixed c f k)

/-- `g_k` with the fields of its place and its seed, its checksums not yet inserted (45_offload.md R287). -/
def fixedSegment (c : TxCtx) (popts : Byte) (f : List Byte) (nseg k : Nat) : List Byte :=
  fixSeed c popts (rawSegment c f k).length (transportFixed c f nseg k)

theorem segmentFrame_eq (c : TxCtx) (popts : Byte) (f : List Byte) (nseg k : Nat) :
    segmentFrame c popts f nseg k = ctxChecksum c popts (fixedSegment c popts f nseg k) := rfl

section Raw

variable {c : TxCtx} {f : List Byte} (hH : c.hdrlen.toNat ≤ f.length)
include hH

theorem rawSegment_length (k : Nat) :
    (rawSegment c f k).length =
      c.hdrlen.toNat + min c.mss.toNat (f.length - c.hdrlen.toNat - k * c.mss.toNat) := by
  simp only [rawSegment, List.length_append, List.length_take, List.length_drop, Nat.min_eq_left hH]

theorem byteAt_rawSegment {m : Nat} (hm : m < c.hdrlen.toNat) (k : Nat) : byteAt (rawSegment c f k) m = byteAt f m := by
  have hlen : m < (f.take c.hdrlen.toNat).length := by rwa [List.length_take_of_le hH]
  rw [byteAt, rawSegment, List.getD_append _ _ _ _ hlen]
  exact byteAt_take f hm

theorem be16_rawSegment {j : Nat} (hj : j + 2 ≤ c.hdrlen.toNat) (k : Nat) : be16 (rawSegment c f k) j = be16 f j := by
  rw [be16, be16, byteAt_rawSegment hH (by omega), byteAt_rawSegment hH (by omega)]

theorem rawSegment_drop (k : Nat) :
    (rawSegment c f k).drop c.hdrlen.toNat =
      ((f.drop c.hdrlen.toNat).drop (k * c.mss.toNat)).take c.mss.toNat :=
  List.drop_left' (List.length_take_of_le hH)

end Raw

/-! ### What the fix-ups and the checksums change -/

/-- The places of the IP fields (45_offload.md R287). -/
def IpPlace (c : TxCtx) (m : Nat) : Prop := c.ipcss.toNat + (if c.ip4 then 2 else 4) ≤ m ∧ m < c.ipcss.toNat + 6

/-- The places of the transport fields (45_offload.md R287). -/
def TransportPlace (c : TxCtx) (m : Nat) : Prop :=
  c.tucss.toNat + 4 ≤ m ∧ m < c.tucss.toNat + (if c.tcp then 8 else 6) ∨ c.tcp = true ∧ m = c.tucss.toNat + 13

/-- The transport fields end with the TCP flags or the UDP length. -/
theorem TransportPlace.lt {c : TxCtx} {m : Nat} (h : TransportPlace c m) :
    m < c.tucss.toNat + (if c.tcp then 14 else 6) := by
  rcases h with ⟨-, hlt⟩ | ⟨htcp, rfl⟩
  · have : (if c.tcp then 8 else 6) ≤ if c.tcp then 14 else 6 := by split <;> decide
    omega
  · rw [if_pos htcp]
    exact Nat.lt_succ_self _

/-- The places of the TCP/UDP checksum, if TXSM asks for it. -/
def TuPlace (c : TxCtx) (popts : Byte) (m : Nat) : Prop :=
  popts.getLsbD 1 = true ∧ c.tucso.toNat ≤ m ∧ m < c.tucso.toNat + 2

/-- The places of the IP checksum, if IXSM asks for it. -/
def IpSumPlace (c : TxCtx) (popts : Byte) (m : Nat) : Prop :=
  popts.getLsbD 0 = true ∧ c.ipcso.toNat ≤ m ∧ m < c.ipcso.toNat + 2

theorem fixIp_changesOnly (c : TxCtx) (hdr : List Byte) (k S : Nat) (g : List Byte) :
    ChangesOnly (IpPlace c) g (fixIp c hdr k S g) := by
  unfold fixIp
  dsimp only
  split
  · next hip4 =>
    have hplace (m : Nat) : IpPlace c m ↔ c.ipcss.toNat + 2 ≤ m ∧ m < c.ipcss.toNat + 6 := by
      rw [IpPlace, if_pos hip4]
    refine ChangesOnly.trans (t := overwrite g (c.ipcss.toNat + 2) (putBe16 ((S - c.ipcss.toNat) % 65536))) ?_ ?_
    · refine (overwrite_changesOnly _ _ _).mono fun m hm => (hplace m).mpr ?_
      rw [putBe16_length] at hm
      omega
    · refine (overwrite_changesOnly _ _ _).mono fun m hm => (hplace m).mpr ?_
      rw [putBe16_length] at hm
      omega
  · next hip6 =>
    refine (overwrite_changesOnly _ _ _).mono fun m hm => ?_
    rw [putBe16_length] at hm
    rw [IpPlace, if_neg hip6]
    omega

theorem fixTransport_changesOnly (c : TxCtx) (hdr : List Byte) (k nseg S : Nat) (g : List Byte) :
    ChangesOnly (TransportPlace c) g (fixTransport c hdr k nseg S g) := by
  unfold fixTransport
  dsimp only
  split
  · next htcp =>
    have hseq : ChangesOnly (TransportPlace c) g
        (overwrite g (c.tucss.toNat + 4) (putBe32 ((be32 hdr (c.tucss.toNat + 4) + k * c.mss.toNat) % 2 ^ 32))) := by
      refine (overwrite_changesOnly _ _ _).mono fun m hm => .inl ?_
      rw [putBe32_length] at hm
      rw [if_pos htcp]
      omega
    split
    · refine hseq.trans ((overwrite_changesOnly _ _ _).mono fun m hm => .inr ⟨htcp, ?_⟩)
      rw [List.length_singleton] at hm
      omega
    · exact hseq
  · next hudp =>
    refine (overwrite_changesOnly _ _ _).mono fun m hm => .inl ?_
    rw [putBe16_length] at hm
    rw [if_neg hudp]
    omega

theorem fixSeed_changesOnly (c : TxCtx) (popts : Byte) (S : Nat) (g : List Byte) :
    ChangesOnly (TuPlace c popts) g (fixSeed c popts S g) := by
  unfold fixSeed
  split
  · next h => exact (overwrite_changesOnly (putBe16 _) _ _).mono fun m hm => ⟨h, hm⟩
  · exact .refl _ g

theorem ctxChecksum_changesOnly (c : TxCtx) (popts : Byte) (g : List Byte) :
    ChangesOnly (fun m => TuPlace c popts m ∨ IpSumPlace c popts m) g (ctxChecksum c popts g).1 := by
  have htu : ChangesOnly (TuPlace c popts) g (insertTu c popts g).1 := by
    unfold insertTu
    split
    · next h => exact (csumInsert_changesOnly _ _ _ _).mono fun m hm => ⟨h, hm⟩
    · exact .refl _ g
  have hip : ChangesOnly (IpSumPlace c popts) (insertTu c popts g).1 (insertIp c popts (insertTu c popts g).1).1 := by
    unfold insertIp
    split
    · next h => exact (csumInsert_changesOnly _ _ _ _).mono fun m hm => ⟨h, hm⟩
    · exact .refl _ _
  exact (htu.mono fun _ => .inl).trans (hip.mono fun _ => .inr)

theorem ipFixed_changesOnly (c : TxCtx) (f : List Byte) (k : Nat) :
    ChangesOnly (IpPlace c) (rawSegment c f k) (ipFixed c f k) := fixIp_changesOnly _ _ _ _ _

theorem transportFixed_changesOnly (c : TxCtx) (f : List Byte) (nseg k : Nat) :
    ChangesOnly (TransportPlace c) (ipFixed c f k) (transportFixed c f nseg k) := fixTransport_changesOnly _ _ _ _ _ _

theorem fixedSegment_changesSeed (c : TxCtx) (popts : Byte) (f : List Byte) (nseg k : Nat) :
    ChangesOnly (TuPlace c popts) (transportFixed c f nseg k) (fixedSegment c popts f nseg k) :=
  fixSeed_changesOnly _ _ _ _

theorem fixedSegment_changesOnly (c : TxCtx) (popts : Byte) (f : List Byte) (nseg k : Nat) :
    ChangesOnly (fun m => IpPlace c m ∨ TransportPlace c m ∨ TuPlace c popts m) (rawSegment c f k)
      (fixedSegment c popts f nseg k) :=
  (((ipFixed_changesOnly c f k).mono fun _ => .inl).trans
      ((transportFixed_changesOnly c f nseg k).mono fun _ => .inr ∘ .inl)).trans
    ((fixedSegment_changesSeed c popts f nseg k).mono fun _ => .inr ∘ .inr)

theorem fixedSegment_length (c : TxCtx) (popts : Byte) (f : List Byte) (nseg k : Nat) :
    (fixedSegment c popts f nseg k).length = (rawSegment c f k).length :=
  (fixedSegment_changesOnly c popts f nseg k).length

/-! ### The payload -/

section Valid

variable {c : TxCtx} {popts : Byte} {f : List Byte} (h : segmentValid c popts f.length = true)
include h

theorem header_le_of_valid : c.hdrlen.toNat ≤ f.length := by
  obtain ⟨-, ⟨-, hH⟩, -⟩ := (segmentValid_eq_true c popts f.length).mp h
  exact hH

/-- Every field and checksum of a well-formed directive lies in the header (45_offload.md R285). -/
theorem place_lt_header {m : Nat}
    (hm : (IpPlace c m ∨ TransportPlace c m ∨ TuPlace c popts m) ∨ TuPlace c popts m ∨ IpSumPlace c popts m) :
    m < c.hdrlen.toNat := by
  obtain ⟨-, -, hip, htcp, hudp, htu, hipsum⟩ := (segmentValid_eq_true c popts f.length).mp h
  have htransport : c.tucss.toNat + (if c.tcp then 14 else 6) ≤ c.hdrlen.toNat := by
    split
    · next hc => exact htcp hc
    · next hc => exact hudp (Bool.eq_false_of_not_eq_true hc)
  have hsum (hm : TuPlace c popts m) : m < c.hdrlen.toNat := by
    obtain ⟨hon, -, hlt⟩ := hm
    exact Nat.lt_of_lt_of_le hlt (htu hon)
  rcases hm with (⟨-, hlt⟩ | hm | hm) | hm | ⟨hon, -, hlt⟩
  · exact Nat.lt_of_lt_of_le hlt hip
  · exact Nat.lt_of_lt_of_le hm.lt htransport
  · exact hsum hm
  · exact hsum hm
  · exact Nat.lt_of_lt_of_le hlt (hipsum hon)

theorem segmentFrame_changesOnly (nseg k : Nat) :
    ChangesOnly (· < c.hdrlen.toNat) (rawSegment c f k) (segmentFrame c popts f nseg k).1 := by
  rw [segmentFrame_eq]
  exact ((fixedSegment_changesOnly c popts f nseg k).mono fun _ hm => place_lt_header h (.inl hm)).trans
    ((ctxChecksum_changesOnly c popts _).mono fun _ hm => place_lt_header h (.inr hm))

theorem segmentFrame_length (nseg k : Nat) :
    (segmentFrame c popts f nseg k).1.length =
      c.hdrlen.toNat + min c.mss.toNat (f.length - c.hdrlen.toNat - k * c.mss.toNat) :=
  (segmentFrame_changesOnly h nseg k).length.trans (rawSegment_length (header_le_of_valid h) k)

/-- Behind its header a segment is its chunk of the payload. -/
theorem segmentFrame_drop (nseg k : Nat) :
    (segmentFrame c popts f nseg k).1.drop c.hdrlen.toNat =
      ((f.drop c.hdrlen.toNat).drop (k * c.mss.toNat)).take c.mss.toNat :=
  ((segmentFrame_changesOnly h nseg k).drop_eq fun _ => id).trans (rawSegment_drop (header_le_of_valid h) k)

end Valid

/-- The first `n` chunks of `M` bytes are the first `n * M` bytes. -/
theorem flatten_chunks (p : List Byte) (M n : Nat) :
    ((List.range n).map fun k => (p.drop (k * M)).take M).flatten = p.take (n * M) := by
  induction n with
  | zero => rw [Nat.zero_mul]; rfl
  | succ n ih =>
    rw [List.range_succ, List.map_append, List.flatten_append, ih, Nat.succ_mul, List.take_add, List.map_singleton,
      List.flatten_singleton]

/-- So many chunks hold the whole of it. -/
theorem le_ceilDiv1_mul (n : Nat) {d : Nat} (hd : 1 ≤ d) : n ≤ ceilDiv1 n d * d := by
  have hdiv : n + d - 1 < (n + d - 1) / d * d + d := Nat.lt_div_mul_add hd
  have hmax : (n + d - 1) / d * d ≤ ceilDiv1 n d * d := Nat.mul_le_mul_right d (Nat.le_max_right _ _)
  omega

/-- Settles O47: the fix-ups and checksums stay in the header, and the chunks are those of the payload. -/
theorem segmentationKeepsThePayload : Obligations.SegmentationKeepsThePayload := by
  intro c popts f H M wellFormed
  have hvalid : segmentValid c popts f.length = true ↔ wellFormed := segmentValid_eq_true c popts f.length
  refine ⟨fun hno => segment_of_invalid (hvalid.not.mpr hno), fun hwf => ?_⟩
  have h := hvalid.mpr hwf
  rw [segment_of_valid h]
  refine ⟨?_, fun k g hg => ?_, ?_⟩
  · rw [List.length_map, List.length_range]
    rfl
  · rw [eq_of_getElem?_map_range hg]
    exact segmentFrame_length h _ k
  · have hcover : (f.drop H).length ≤ segmentCount c f * M := by
      rw [List.length_drop]
      exact le_ceilDiv1_mul _ hwf.1
    rw [List.map_map, ← List.take_of_length_le hcover, ← flatten_chunks]
    exact congrArg List.flatten (List.map_congr_left fun k _ => segmentFrame_drop h _ k)

/-! ### The header fields -/

theorem fixIp_ip4 {c : TxCtx} (hip4 : c.ip4 = true) {g : List Byte} (hfit : c.ipcss.toNat + 6 ≤ g.length)
    (hdr : List Byte) (k S : Nat) :
    be16 (fixIp c hdr k S g) (c.ipcss.toNat + 2) = (S - c.ipcss.toNat) % 65536 ∧
      be16 (fixIp c hdr k S g) (c.ipcss.toNat + 4) = (be16 hdr (c.ipcss.toNat + 4) + k) % 65536 := by
  rw [fixIp, if_pos hip4]
  have htotal := overwrite_changesOnly (putBe16 ((S - c.ipcss.toNat) % 65536)) g (c.ipcss.toNat + 2)
  have hident := overwrite_changesOnly (putBe16 ((be16 hdr (c.ipcss.toNat + 4) + k) % 65536))
    (overwrite g (c.ipcss.toNat + 2) (putBe16 ((S - c.ipcss.toNat) % 65536))) (c.ipcss.toNat + 4)
  constructor
  · rw [hident.be16_eq (by omega) (by omega), be16_overwrite (by omega), Nat.mod_mod]
  · rw [be16_overwrite (by rw [htotal.length]; omega), Nat.mod_mod]

/-- Log entry 15: the IPv6 payload length is the segment's length less the 40 bytes of the header, modulo 2^16. -/
theorem fixIp_ip6 {c : TxCtx} (hip6 : c.ip4 = false) {g : List Byte} (hfit : c.ipcss.toNat + 6 ≤ g.length)
    (hdr : List Byte) (k : Nat) {S : Nat} (hS : c.ipcss.toNat ≤ S) :
    (be16 (fixIp c hdr k S g) (c.ipcss.toNat + 4) + c.ipcss.toNat + 40) % 65536 = S % 65536 := by
  rw [fixIp, if_neg (by rw [hip6]; decide), be16_overwrite (by omega)]
  omega

theorem fixTransport_tcp {c : TxCtx} (htcp : c.tcp = true) {g : List Byte} (hfit : c.tucss.toNat + 14 ≤ g.length)
    (hdr : List Byte) (k nseg S : Nat) :
    be32 (fixTransport c hdr k nseg S g) (c.tucss.toNat + 4) =
        (be32 hdr (c.tucss.toNat + 4) + k * c.mss.toNat) % 2 ^ 32 ∧
      byteAt (fixTransport c hdr k nseg S g) (c.tucss.toNat + 13) =
        if k + 1 < nseg then byteAt g (c.tucss.toNat + 13) &&& 0xF6#8 else byteAt g (c.tucss.toNat + 13) := by
  rw [fixTransport, if_pos htcp]
  dsimp only
  have hseq := overwrite_changesOnly (putBe32 ((be32 hdr (c.tucss.toNat + 4) + k * c.mss.toNat) % 2 ^ 32)) g
    (c.tucss.toNat + 4)
  have hread := be32_overwrite (s := g) (i := c.tucss.toNat + 4) (by omega)
    ((be32 hdr (c.tucss.toNat + 4) + k * c.mss.toNat) % 2 ^ 32)
  rw [Nat.mod_mod] at hread
  generalize overwrite g (c.tucss.toNat + 4) _ = u at *
  have hflags : byteAt u (c.tucss.toNat + 13) = byteAt g (c.tucss.toNat + 13) :=
    hseq.bytes _ (by rw [putBe32_length]; omega)
  rw [hflags]
  by_cases hk : k + 1 < nseg
  · rw [if_pos (by omega : k < nseg - 1), if_pos hk]
    have hstore := overwrite_changesOnly [byteAt g (c.tucss.toNat + 13) &&& 0xF6#8] u (c.tucss.toNat + 13)
    constructor
    · rw [be32, hstore.be16_eq (by omega) (by omega), hstore.be16_eq (by omega) (by omega), ← be32, hread]
    · exact byteAt_overwrite [_] u _ 0 (Nat.zero_lt_one) (by rw [hseq.length]; exact hfit)
  · rw [if_neg (by omega : ¬k < nseg - 1), if_neg hk]
    exact ⟨hread, hflags⟩

theorem fixTransport_udp {c : TxCtx} (hudp : c.tcp = false) {g : List Byte} (hfit : c.tucss.toNat + 6 ≤ g.length)
    (hdr : List Byte) (k nseg S : Nat) :
    be16 (fixTransport c hdr k nseg S g) (c.tucss.toNat + 4) = (S - c.tucss.toNat) % 65536 := by
  rw [fixTransport, if_neg (by rw [hudp]; decide), be16_overwrite (by omega), Nat.mod_mod]

theorem fixSeed_txsm {c : TxCtx} {popts : Byte} (htxsm : popts.getLsbD 1 = true) {g : List Byte}
    (hfit : c.tucso.toNat + 2 ≤ g.length) (S : Nat) :
    be16 (fixSeed c popts S g) c.tucso.toNat = foldSum (be16 g c.tucso.toNat + (S - c.tucss.toNat)) := by
  rw [fixSeed, txsm, if_pos htxsm, be16_overwrite hfit, Nat.mod_eq_of_lt (Nat.lt_succ_of_le (foldSum_le _))]

section FieldsApart

variable {c : TxCtx} {popts : Byte} {f : List Byte} (h : segmentValid c popts f.length = true)
  (hit : c.ipcss.toNat + 6 ≤ c.tucss.toNat)
  (hto : popts.getLsbD 1 = true → c.tucss.toNat + (if c.tcp then 14 else 6) ≤ c.tucso.toNat)

include h in
theorem header_le_rawSegment (k : Nat) : c.hdrlen.toNat ≤ (rawSegment c f k).length := by
  rw [rawSegment_length (header_le_of_valid h)]
  exact Nat.le_add_right _ _

include hto in
/-- The seed lies behind the transport fields. -/
theorem fixedSegment_changesBehind (nseg k : Nat) :
    ChangesOnly (c.tucss.toNat + (if c.tcp then 14 else 6) ≤ ·) (transportFixed c f nseg k)
      (fixedSegment c popts f nseg k) :=
  (fixedSegment_changesSeed c popts f nseg k).mono fun _ ⟨hon, hle, _⟩ => (hto hon).trans hle

include hto in
/-- The transport fields and the seed lie behind the IP fields. -/
theorem ipFixed_changesBehind (nseg k : Nat) :
    ChangesOnly (c.tucss.toNat + 4 ≤ ·) (ipFixed c f k) (fixedSegment c popts f nseg k) := by
  refine ((transportFixed_changesOnly c f nseg k).mono fun m hm => ?_).trans
    ((fixedSegment_changesBehind hto nseg k).mono fun m hm => ?_)
  · rcases hm with ⟨hle, -⟩ | ⟨-, rfl⟩ <;> omega
  · split at hm <;> omega

include hit in
theorem byteAt_ipFixed {m : Nat} (hH : c.hdrlen.toNat ≤ f.length) (hm : m < c.hdrlen.toNat)
    (hbehind : c.tucss.toNat ≤ m) (k : Nat) : byteAt (ipFixed c f k) m = byteAt f m := by
  rw [(ipFixed_changesOnly c f k).bytes m fun ⟨_, hlt⟩ => by omega, byteAt_rawSegment hH hm]

include h hto in
theorem fixedSegment_udp (hudp : c.tcp = false) (nseg k : Nat) :
    be16 (fixedSegment c popts f nseg k) (c.tucss.toNat + 4) =
      ((fixedSegment c popts f nseg k).length - c.tucss.toNat) % 65536 := by
  obtain ⟨-, -, -, -, hfits, -⟩ := (segmentValid_eq_true c popts f.length).mp h
  have hseed := fixedSegment_changesBehind (f := f) hto nseg k
  rw [if_neg (by rw [hudp]; decide)] at hseed
  have hfit : c.tucss.toNat + 6 ≤ (ipFixed c f k).length := by
    rw [(ipFixed_changesOnly c f k).length]
    exact (hfits hudp).trans (header_le_rawSegment h k)
  rw [hseed.be16_eq (by omega) (by omega), fixedSegment_length]
  exact fixTransport_udp hudp hfit _ _ _ _

include h hit hto

theorem fixedSegment_ip4 (hip4 : c.ip4 = true) (nseg k : Nat) :
    be16 (fixedSegment c popts f nseg k) (c.ipcss.toNat + 2) =
        ((fixedSegment c popts f nseg k).length - c.ipcss.toNat) % 65536 ∧
      be16 (fixedSegment c popts f nseg k) (c.ipcss.toNat + 4) = (be16 f (c.ipcss.toNat + 4) + k) % 65536 := by
  obtain ⟨-, -, hip, -⟩ := (segmentValid_eq_true c popts f.length).mp h
  have hlater := ipFixed_changesBehind (f := f) hto nseg k
  rw [hlater.be16_eq (by omega) (by omega), hlater.be16_eq (by omega) (by omega), fixedSegment_length,
    ← be16_take f hip]
  exact fixIp_ip4 hip4 (hip.trans (header_le_rawSegment h k)) _ _ _

theorem fixedSegment_ip6 (hip6 : c.ip4 = false) (nseg k : Nat) :
    (be16 (fixedSegment c popts f nseg k) (c.ipcss.toNat + 4) + c.ipcss.toNat + 40) % 65536 =
      (fixedSegment c popts f nseg k).length % 65536 := by
  obtain ⟨-, -, hip, -⟩ := (segmentValid_eq_true c popts f.length).mp h
  have hfit := hip.trans (header_le_rawSegment h k)
  rw [(ipFixed_changesBehind (f := f) hto nseg k).be16_eq (by omega) (by omega), fixedSegment_length]
  exact fixIp_ip6 hip6 hfit _ _ (by omega)

theorem fixedSegment_tcp (htcp : c.tcp = true) (nseg k : Nat) :
    be32 (fixedSegment c popts f nseg k) (c.tucss.toNat + 4) =
        (be32 f (c.tucss.toNat + 4) + k * c.mss.toNat) % 2 ^ 32 ∧
      byteAt (fixedSegment c popts f nseg k) (c.tucss.toNat + 13) =
        if k + 1 < nseg then byteAt f (c.tucss.toNat + 13) &&& 0xF6#8 else byteAt f (c.tucss.toNat + 13) := by
  obtain ⟨-, ⟨-, hH⟩, -, hfits, -⟩ := (segmentValid_eq_true c popts f.length).mp h
  have hheader := hfits htcp
  have hseed := fixedSegment_changesBehind (f := f) hto nseg k
  rw [if_pos htcp] at hseed
  have hfit : c.tucss.toNat + 14 ≤ (ipFixed c f k).length := by
    rw [(ipFixed_changesOnly c f k).length]
    exact hheader.trans (header_le_rawSegment h k)
  rw [be32, hseed.be16_eq (by omega) (by omega), hseed.be16_eq (by omega) (by omega), ← be32,
    hseed.bytes _ (by omega), ← be32_take f (by omega : c.tucss.toNat + 4 + 4 ≤ c.hdrlen.toNat),
    ← byteAt_ipFixed hit hH (by omega : c.tucss.toNat + 13 < c.hdrlen.toNat) (by omega) k]
  exact fixTransport_tcp htcp hfit _ _ _ _

theorem fixedSegment_txsm (htxsm : popts.getLsbD 1 = true) (nseg k : Nat) :
    be16 (fixedSegment c popts f nseg k) c.tucso.toNat =
      foldSum (be16 f c.tucso.toNat + ((fixedSegment c popts f nseg k).length - c.tucss.toNat)) := by
  obtain ⟨-, ⟨-, hH⟩, -, -, -, hfits, -⟩ := (segmentValid_eq_true c popts f.length).mp h
  have hbehind := hto htxsm
  have htransport : ChangesOnly (fun m => IpPlace c m ∨ TransportPlace c m) (rawSegment c f k)
      (transportFixed c f nseg k) :=
    ((ipFixed_changesOnly c f k).mono fun _ => .inl).trans ((transportFixed_changesOnly c f nseg k).mono fun _ => .inr)
  have hclear (m : Nat) (hm : c.tucso.toNat ≤ m) : ¬(IpPlace c m ∨ TransportPlace c m) := by
    rintro (⟨-, hlt⟩ | htransport)
    · omega
    · exact absurd htransport.lt (by omega)
  have hfit : c.tucso.toNat + 2 ≤ (transportFixed c f nseg k).length := by
    rw [htransport.length]
    exact (hfits htxsm).trans (header_le_rawSegment h k)
  rw [fixedSegment_length, ← be16_rawSegment hH (hfits htxsm) k,
    ← htransport.be16_eq (hclear _ (Nat.le_refl _)) (hclear _ (Nat.le_succ _))]
  exact fixSeed_txsm htxsm hfit _

end FieldsApart

/-- A byte that is in none of the fields is as the frame has it. -/
theorem fixedSegment_other (c : TxCtx) (popts : Byte) (f : List Byte) (nseg k : Nat) {m : Nat}
    (hip : m < c.ipcss.toNat + (if c.ip4 then 2 else 4) ∨ c.ipcss.toNat + 6 ≤ m)
    (htransport : m < c.tucss.toNat + 4 ∨ c.tucss.toNat + (if c.tcp then 8 else 6) ≤ m)
    (hflags : c.tcp = true → m ≠ c.tucss.toNat + 13)
    (hseed : popts.getLsbD 1 = true → m < c.tucso.toNat ∨ c.tucso.toNat + 2 ≤ m) :
    byteAt (fixedSegment c popts f nseg k) m = byteAt (rawSegment c f k) m := by
  refine (fixedSegment_changesOnly c popts f nseg k).bytes m ?_
  rintro (⟨hle, hlt⟩ | (⟨hle, hlt⟩ | ⟨htcp, heq⟩) | ⟨hon, hle, hlt⟩)
  · omega
  · omega
  · exact hflags htcp heq
  · have := hseed hon
    omega

/-- Settles O48: the list is that of the fixed segments, and each clause is a field of them. -/
theorem segmentHeaderFields : Obligations.SegmentHeaderFields := by
  intro c popts f H M i t o nseg checksums h hit hto
  let hs := (List.range nseg).map (fixedSegment c popts f nseg)
  refine ⟨hs, ?_, ?_, fun k g hg => ?_⟩
  · rw [List.length_map, List.length_range]
  · rw [segment_of_valid h, List.map_map, List.any_map]
    rfl
  · obtain rfl := eq_of_getElem?_map_range hg
    exact ⟨fixedSegment_length c popts f nseg k, fun hip4 => fixedSegment_ip4 h hit hto hip4 nseg k,
      fun hip6 => fixedSegment_ip6 h hit hto hip6 nseg k, fun htcp => fixedSegment_tcp h hit hto htcp nseg k,
      fun hudp => fixedSegment_udp h hto hudp nseg k, fun htxsm => fixedSegment_txsm h hit hto htxsm nseg k,
      fun m hip htransport hflags hseed => fixedSegment_other c popts f nseg k hip htransport hflags hseed⟩

end Sys2Proof.Machine
end

section
/-! SUPPORT. How the Receive Engine drops a frame and scans its ring: the proofs of the statements about the buffer sizes
and the frame that finds no free descriptor (46_receive.md R300 to R306). -/

namespace Sys2Proof.Machine

/-! ### Buffer sizes -/

/-- Settles O49: RCTL enters the table by BSEX and BSIZE only, which have eight values together. -/
theorem receiveBufferSizes : Obligations.ReceiveBufferSizes := by
  intro rctl
  unfold rxBufSize
  generalize rctl.getLsbD 25 = bsex
  generalize rctl.extractLsb' 16 2 = bsize
  revert bsex bsize
  decide

theorem rxBufSize_pos (rctl : Word) : 0 < rxBufSize rctl := by
  rw [receiveBufferSizes rctl]
  split <;> exact Nat.zero_lt_succ _

/-! ### A dropped frame -/

theorem exec_rxFrame (frame : List Byte) (s : State) : exec (.rxFrame frame) s = .next (receiveFrame frame s) := rfl

/-- A drop counts one up to the counter's end (46_receive.md R304). -/
theorem rxDrop_counts (s : State) :
    ∃ n : BitVec 32, n.toNat = min (s.rxDropCount.toNat + 1) 0xFFFFFFFF ∧
      rxDrop s = { s with rxDropCount := n, out := s.out ++ [.raised .ringOverrun] } := by
  refine ⟨_, ?_, rxDrop_eq s⟩
  split
  · next hfull =>
    rw [hfull]
    rfl
  · bv_omega

/-- Nothing is free exactly when the head stands at the tail (46_receive.md R303). -/
theorem rxFree_eq_zero {s : State} (hhead : rxHead s < rxCount s) (htail : rxTail s < rxCount s) :
    rxFree s = 0 ↔ rxHead s = rxTail s := by
  obtain ⟨-, hmeet, hbefore⟩ := places_to_tail hhead htail (n := rxFree s) rfl
  constructor
  · intro h
    rwa [h, Nat.add_zero, Nat.mod_eq_of_lt hhead] at hmeet
  · intro h
    by_contra hfree
    exact hbefore 0 (Nat.pos_of_ne_zero hfree) (by rw [Nat.add_zero, Nat.mod_eq_of_lt hhead, h])

theorem receiveFrame_of_unusable {s : State} (frame : List Byte)
    (h : ringRefused (rxCount s) (rxHead s) (rxTail s) = true ∨ rxFree s = 0) : receiveFrame frame s = rxDrop s := by
  rcases receiveFrame_cases frame s with ⟨_, e⟩ | ⟨hring, hfree, _⟩
  · exact e
  · exact (h.elim (fun hr => absurd (hr.symm.trans hring) (by decide)) (absurd · hfree))

/-- Settles O50: on an unusable ring, or with nothing free, the frame is dropped at once. -/
theorem frameWithoutAFreeDescriptorIsDropped : Obligations.FrameWithoutAFreeDescriptorIsDropped := by
  intro s frame h
  have hunusable : ringRefused (rxCount s) (rxHead s) (rxTail s) = true ∨ rxFree s = 0 := by
    rcases h with h | h | h | h
    · exact .inl ((ringRefused_eq_true _ _ _).mpr (.inl h))
    · exact .inl ((ringRefused_eq_true _ _ _).mpr (.inr (.inl h)))
    · exact .inl ((ringRefused_eq_true _ _ _).mpr (.inr (.inr h)))
    · exact .inr (by rw [rxFree, h, Nat.add_sub_cancel_left, Nat.mod_self])
  rw [exec_rxFrame, receiveFrame_of_unusable frame hunusable]
  obtain ⟨n, hn, e⟩ := rxDrop_counts s
  exact ⟨n, hn, congrArg _ e⟩

/-- With a free descriptor on a usable ring a frame is dropped after the scan or fills what the scan found
(46_receive.md R300). -/
theorem receiveFrame_of_free {s : State} (frame : List Byte) (hhead : rxHead s < rxCount s)
    (htail : rxTail s < rxCount s) (hne : rxHead s ≠ rxTail s) {need : Nat} {g : List (Addr × RxDesc) × State}
    (hneed : need = ceilDiv1 frame.length (rxBufSize s.regs.rctl)) (hg : g = rxGather (rxCount s) (rxFree s) need s) :
    (g.1 = [] → receiveFrame frame s = rxDrop g.2) ∧
      (g.1 ≠ [] →
        receiveFrame frame s = raiseCause causeRxt0 (rxFill frame g.1 need (rxBufSize s.regs.rctl) g.2)) := by
  have husable : ringRefused (rxCount s) (rxHead s) (rxTail s) = false :=
    (ringRefused_eq_false _ _ _).mpr ⟨by omega, hhead, htail⟩
  rcases receiveFrame_cases frame s with ⟨h, _⟩ | ⟨_, _, need', g', hneed', hg', hcases⟩
  · rcases h with h | h
    · exact absurd (h.symm.trans husable) (by decide)
    · exact absurd ((rxFree_eq_zero hhead htail).mp h) hne
  · obtain rfl : need' = need := hneed'.trans hneed.symm
    obtain rfl : g' = g := hg'.trans hg.symm
    exact ⟨fun h => hcases.elim (·.2) fun c => absurd h c.1, fun h => hcases.elim (fun c => absurd c.1 h) (·.2)⟩

/-! ### Scanning the ring -/

/-- The address of the descriptor `j` places from the head (46_receive.md R306). -/
def rxDescAt (nr : Nat) (s : State) (j : Nat) : Addr := descAddr (rdba s) ((rxHead s + j) % nr)

/-- What a scan of the descriptor `j` places from the head takes in hand (46_receive.md R306). -/
def rxEntryAt (nr : Nat) (s : State) (j : Nat) : Addr × RxDesc :=
  (rxDescAt nr s j, decodeRxd (descInt (Memory.readRange s.mem (rxDescAt nr s j).toNat 16)))

/-- The state once the head has passed `k` descriptors, with the port events of their scans. -/
def rxScanned (nr k : Nat) (evs : List PortEvent) (s : State) : State :=
  { s with regs := { s.regs with rdh := BitVec.ofNat 32 ((rxHead s + k) % nr) }, out := s.out ++ evs }

theorem rxScanned_nothing {nr : Nat} {s : State} (hhead : rxHead s < nr) : rxScanned nr 0 [] s = s := by
  have hrdh : BitVec.ofNat 32 (rxHead s) = s.regs.rdh :=
    (BitVec.ofNat_toNat 32 s.regs.rdh).trans (BitVec.setWidth_eq _)
  rw [rxScanned, Nat.add_zero, Nat.mod_eq_of_lt hhead, hrdh, List.append_nil]

theorem rxHead_rxScanned {nr : Nat} (hpos : 0 < nr) (hn : nr ≤ 2 ^ 32) (k : Nat) (evs : List PortEvent) (s : State) :
    rxHead (rxScanned nr k evs s) = (rxHead s + k) % nr := by
  have hlt : (rxHead s + k) % nr < nr := Nat.mod_lt _ hpos
  exact (BitVec.toNat_ofNat _ _).trans (Nat.mod_eq_of_lt (by omega))

theorem rxScanned_rxScanned {nr : Nat} (hpos : 0 < nr) (hn : nr ≤ 2 ^ 32) (k : Nat) (e evs : List PortEvent)
    (s : State) : rxScanned nr k evs (rxScanned nr 1 e s) = rxScanned nr (k + 1) (e ++ evs) s := by
  rw [rxScanned, rxHead_rxScanned hpos hn, Nat.mod_add_mod, Nat.add_assoc, Nat.add_comm 1 k, rxScanned, rxScanned,
    List.append_assoc]

theorem rxDescAt_zero {nr : Nat} {s : State} (hhead : rxHead s < nr) : rxDescAt nr s 0 = rxDescAddr s := by
  rw [rxDescAt, Nat.add_zero, Nat.mod_eq_of_lt hhead, rxDescAddr]

theorem rxEntryAt_zero {nr : Nat} {s : State} (hhead : rxHead s < nr) :
    rxEntryAt nr s 0 =
      (rxDescAddr s, decodeRxd (descInt (Memory.readRange s.mem (rxDescAddr s).toNat 16))) := by
  rw [rxEntryAt, rxDescAt_zero hhead]

theorem rxDescAt_rxScanned {nr : Nat} (hpos : 0 < nr) (hn : nr ≤ 2 ^ 32) (evs : List PortEvent) (s : State) (j : Nat) :
    rxDescAt nr (rxScanned nr 1 evs s) j = rxDescAt nr s (j + 1) := by
  rw [rxDescAt, rxHead_rxScanned hpos hn, Nat.mod_add_mod, Nat.add_assoc, Nat.add_comm 1 j, rxDescAt]
  rfl

theorem rxEntryAt_rxScanned {nr : Nat} (hpos : 0 < nr) (hn : nr ≤ 2 ^ 32) (evs : List PortEvent) (s : State) (j : Nat) :
    rxEntryAt nr (rxScanned nr 1 evs s) j = rxEntryAt nr s (j + 1) := by
  rw [rxEntryAt, rxDescAt_rxScanned hpos hn, rxEntryAt]
  rfl

theorem rxGather_of_no_free (nr need : Nat) (s : State) : rxGather nr 0 need s = ([], s) := rfl

theorem rxGather_of_no_need (nr free : Nat) (s : State) : rxGather nr free 0 s = ([], s) := by cases free <;> rfl

/-- A descriptor that can be fetched is taken in hand (46_receive.md R306). -/
theorem rxGather_of_mapped {s : State} (nr free need : Nat) (hm : mappable s.holes (rxDescAddr s) 16 = true) :
    rxGather nr (free + 1) (need + 1) s =
      ((rxDescAddr s, decodeRxd (descInt (Memory.readRange s.mem (rxDescAddr s).toNat 16))) ::
          (rxGather nr free need (rxScanned nr 1 [.memRead (rxDescAddr s) 16 true] s)).1,
        (rxGather nr free need (rxScanned nr 1 [.memRead (rxDescAddr s) 16 true] s)).2) := by
  rcases rxFetch_cases nr s with ⟨_, e⟩ | ⟨hno, _⟩
  · rw [rxGather, e]
    rfl
  · exact absurd (hm.symm.trans hno) (by decide)

/-- One that cannot is recorded and skipped (46_receive.md R306). -/
theorem rxGather_of_unmapped {s : State} (nr free need : Nat) (hno : mappable s.holes (rxDescAddr s) 16 = false) :
    rxGather nr (free + 1) (need + 1) s =
      rxGather nr free (need + 1)
        (rxScanned nr 1 [.memRead (rxDescAddr s) 16 false, .raised (.dma .rxDescFetch)] s) := by
  rcases rxFetch_cases nr s with ⟨hm, _⟩ | ⟨_, e⟩
  · exact absurd (hm.symm.trans hno) (by decide)
  · rw [rxGather, e, rxScanned, List.append_cons]
    rfl

/-- Either way one scan passes one descriptor, and the one at the head is what it can take in hand. -/
theorem rxGather_succ (nr free need : Nat) (s : State) (hhead : rxHead s < nr) :
    ∃ got rest ev, rxGather nr (free + 1) (need + 1) s =
        (got ++ (rxGather nr free rest (rxScanned nr 1 ev s)).1, (rxGather nr free rest (rxScanned nr 1 ev s)).2) ∧
      ∀ e ∈ got, mappable s.holes (rxDescAt nr s 0) 16 = true ∧ e = rxEntryAt nr s 0 := by
  rw [rxEntryAt_zero hhead, rxDescAt_zero hhead]
  cases hm : mappable s.holes (rxDescAddr s) 16 with
  | true => exact ⟨[_], _, _, rxGather_of_mapped nr free need hm, fun e he => ⟨rfl, List.mem_singleton.mp he⟩⟩
  | false => exact ⟨[], _, _, rxGather_of_unmapped nr free need hm, fun e he => absurd he List.not_mem_nil⟩

/-- What a gathering does: the head passes the `k` descriptors it scans, of which those in hand are some that could be
fetched (46_receive.md R306). -/
theorem rxGather_scans {nr : Nat} (hn : nr ≤ 2 ^ 32) (free need : Nat) (s : State) (hhead : rxHead s < nr) :
    ∃ k evs, k ≤ free ∧ (0 < free → 0 < need → 0 < k) ∧ (rxGather nr free need s).2 = rxScanned nr k evs s ∧
      ∀ e ∈ (rxGather nr free need s).1,
        ∃ j < k, mappable s.holes (rxDescAt nr s j) 16 = true ∧ e = rxEntryAt nr s j := by
  have hpos : 0 < nr := Nat.zero_lt_of_lt hhead
  induction free generalizing need s with
  | zero =>
    exact ⟨0, [], le_rfl, fun h => absurd h (Nat.lt_irrefl 0), (rxScanned_nothing hhead).symm, by simp [rxGather]⟩
  | succ free ih =>
    cases need with
    | zero =>
      exact ⟨0, [], Nat.zero_le _, fun _ h => absurd h (Nat.lt_irrefl 0), (rxScanned_nothing hhead).symm,
        by simp [rxGather]⟩
    | succ need =>
      obtain ⟨got, rest, ev, e, hfirst⟩ := rxGather_succ nr free need s hhead
      obtain ⟨k, evs, hk, -, hstate, hlater⟩ :=
        ih rest (rxScanned nr 1 ev s) (by rw [rxHead_rxScanned hpos hn]; exact Nat.mod_lt _ hpos)
      rw [e]
      refine ⟨k + 1, ev ++ evs, Nat.succ_le_succ hk, fun _ _ => Nat.succ_pos k,
        hstate.trans (rxScanned_rxScanned hpos hn k ev evs s), fun d hd => ?_⟩
      rcases List.mem_append.mp hd with hd | hd
      · exact ⟨0, Nat.succ_pos k, hfirst d hd⟩
      · obtain ⟨j, hj, hentry⟩ := hlater d hd
        rw [rxDescAt_rxScanned hpos hn, rxEntryAt_rxScanned hpos hn] at hentry
        exact ⟨j + 1, Nat.succ_lt_succ hj, hentry⟩

/-- Where every descriptor can be fetched, a gathering stops at what is needed or what is free (46_receive.md R306). -/
theorem rxGather_all_mapped {nr : Nat} (hn : nr ≤ 2 ^ 32) (free need : Nat) (s : State) (hhead : rxHead s < nr)
    (hm : ∀ j < min free need, mappable s.holes (rxDescAt nr s j) 16 = true) :
    rxGather nr free need s =
      ((List.range (min free need)).map (rxEntryAt nr s),
        rxScanned nr (min free need)
          ((List.range (min free need)).map fun j => .memRead (rxDescAt nr s j) 16 true) s) := by
  have hpos : 0 < nr := Nat.zero_lt_of_lt hhead
  induction free generalizing need s with
  | zero =>
    rw [Nat.zero_min, List.range_zero, List.map_nil, List.map_nil, rxScanned_nothing hhead, rxGather_of_no_free]
  | succ free ih =>
    cases need with
    | zero =>
      rw [Nat.min_zero, List.range_zero, List.map_nil, List.map_nil, rxScanned_nothing hhead, rxGather_of_no_need]
    | succ need =>
      rw [Nat.succ_min_succ] at hm ⊢
      have hfirst : mappable s.holes (rxDescAddr s) 16 = true := rxDescAt_zero hhead ▸ hm 0 (Nat.succ_pos _)
      have hrest := ih need (rxScanned nr 1 [.memRead (rxDescAddr s) 16 true] s)
        (by rw [rxHead_rxScanned hpos hn]; exact Nat.mod_lt _ hpos)
        (fun j hj => by rw [rxDescAt_rxScanned hpos hn]; exact hm (j + 1) (Nat.succ_lt_succ hj))
      have hentry : rxEntryAt nr (rxScanned nr 1 [.memRead (rxDescAddr s) 16 true] s) = rxEntryAt nr s ∘ Nat.succ :=
        funext (rxEntryAt_rxScanned hpos hn _ s)
      rw [rxGather_of_mapped nr free need hfirst, hrest, rxScanned_rxScanned hpos hn, List.range_succ_eq_map, hentry]
      simp only [rxDescAt_rxScanned hpos hn, List.map_cons, List.map_map, rxEntryAt_zero hhead, rxDescAt_zero hhead]
      rfl

end Sys2Proof.Machine
end

section
/-! SUPPORT. The receive checksum report: the proof of the statement about it (46_receive.md R314 to R318). -/

namespace Sys2Proof.Machine

/-! ### What is checked -/

theorem isIPv4_iff (f : List Byte) :
    isIPv4 f = true ↔
      34 ≤ f.length ∧ byteAt f 12 = 0x08#8 ∧ byteAt f 13 = 0x00#8 ∧ (byteAt f 14).extractLsb' 4 4 = 4#4 ∧
        20 ≤ rxIhl f ∧ 14 + rxIhl f ≤ f.length := by
  simp only [isIPv4, Bool.and_eq_true, decide_eq_true_eq, beq_iff_eq, and_assoc]

/-- Neither the fragment offset nor more-fragments is set: bits 13:0 of the field (46_receive.md R316). -/
theorem mod_fragment_eq_and (n : Nat) : n % 0x4000 = n &&& 0x3FFF := (Nat.and_two_pow_sub_one_eq_mod n 14).symm

theorem l4Checkable_iff (f : List Byte) :
    l4Checkable f = true ↔
      (byteAt f 23 = 6#8 ∨ byteAt f 23 = 17#8) ∧ be16 f 20 &&& 0x3FFF = 0 ∧
        rxIhl f + (if byteAt f 23 = 6#8 then 20 else 8) ≤ rxTot f ∧ 14 + rxTot f ≤ f.length ∧
        (byteAt f 23 = 17#8 → be16 f (14 + rxIhl f + 6) ≠ 0) := by
  simp only [l4Checkable, rxIsTcp, rxIsUdp, mod_fragment_eq_and, Bool.and_eq_true, Bool.or_eq_true, decide_eq_true_eq,
    beq_iff_eq, bne_iff_ne, Bool.not_eq_true', beq_eq_false_iff_ne, and_assoc, imp_iff_not_or, ne_eq]

theorem l4Good_iff (f : List Byte) :
    l4Good f = true ↔
      ocSum (slice f 26 34 ++ [0x00#8, byteAt f 23] ++ putBe16 (rxTot f - rxIhl f)
        ++ slice f (14 + rxIhl f) (14 + rxTot f)) = 0xFFFF := by
  rw [l4Good, beq_iff_eq]

theorem rxPacketCsum_toNat (pcss : Nat) (f : List Byte) :
    (rxPacketCsum pcss f).toNat = if pcss < f.length then ocSum (f.drop pcss) else 0 := by
  unfold rxPacketCsum
  split
  · exact (BitVec.toNat_ofNat _ _).trans (Nat.mod_eq_of_lt (Nat.lt_succ_of_le (ocSum_le _)))
  · rfl

/-! ### The report -/

/-- IPOFL and TUOFL are both 0 exactly when bits 9:8 of RXCSUM are (10_state.md R37). -/
theorem reporting_off_iff (rxcsum : Word) :
    (!ipofl rxcsum && !tuofl rxcsum) = true ↔ rxcsum.extractLsb' 8 2 = 0#2 := by
  rw [Bool.and_eq_true, Bool.not_eq_true', Bool.not_eq_true']
  constructor
  · rintro ⟨hip, htu⟩
    refine BitVec.eq_of_getLsbD_eq fun i hi => ?_
    rw [BitVec.getLsbD_extractLsb', BitVec.getLsbD_zero, decide_eq_true hi, Bool.true_and]
    interval_cases i
    · exact hip
    · exact htu
  · intro h
    have hbit (i : Nat) (hi : i < 2) : rxcsum.getLsbD (8 + i) = false := by
      have hi' := congrArg (BitVec.getLsbD · i) h
      rwa [BitVec.getLsbD_extractLsb', BitVec.getLsbD_zero, decide_eq_true hi, Bool.true_and] at hi'
    exact ⟨hbit 0 Nat.two_pos, hbit 1 Nat.one_lt_two⟩

/-- With both enables off, or on a truncated frame, nothing is reported (46_receive.md R314). -/
theorem rxChecksum_of_silent {rxcsum : Word} {trunc : Bool} (f : List Byte)
    (h : rxcsum.extractLsb' 8 2 = 0#2 ∨ trunc = true) :
    rxChecksum rxcsum f trunc = { status := 0x04#8, errors := 0x00#8, csum := 0x0000#16 } := by
  rw [← reporting_off_iff, ← Bool.or_eq_true] at h
  rw [rxChecksum, if_pos h]

section Reporting

variable {rxcsum : Word} (f : List Byte) (hon : rxcsum.extractLsb' 8 2 ≠ 0#2)

include hon

theorem not_silent : ¬(!ipofl rxcsum && !tuofl rxcsum || false) = true := by
  rwa [Bool.or_false, reporting_off_iff]

theorem rxChecksum_csum : (rxChecksum rxcsum f false).csum = rxPacketCsum (rxcsum.extractLsb' 0 8).toNat f := by
  rw [rxChecksum, if_neg (not_silent hon)]
  cases isIPv4 f <;> rfl

theorem rxChecksum_of_not_ipv4 (hip : isIPv4 f = false) :
    (rxChecksum rxcsum f false).status = 0x04#8 ∧ (rxChecksum rxcsum f false).errors = 0x00#8 := by
  rw [rxChecksum, if_neg (not_silent hon), hip]
  exact ⟨rfl, rfl⟩

/-- On an IPv4 frame each check stands in the status where it was done and in the errors where it also failed, and IXSM
stands where none was done (46_receive.md R314). -/
theorem rxChecksum_of_ipv4 (hip : isIPv4 f = true) {ip tu : Bool} (hipofl : ip = ipofl rxcsum)
    (htu : tu = (tuofl rxcsum && l4Checkable f)) :
    (rxChecksum rxcsum f false).status =
        ((if ip then 0x40#8 else 0#8) ||| (if tu then 0x20#8 else 0#8) ||| (if ip || tu then 0#8 else 0x04#8)) ∧
      (rxChecksum rxcsum f false).errors =
        ((if ip && ocSum (slice f 14 (14 + rxIhl f)) != 0xFFFF then 0x40#8 else 0#8) |||
          (if tu && !l4Good f then 0x20#8 else 0#8)) := by
  rw [rxChecksum, if_neg (not_silent hon), hip, ← hipofl, ← htu]
  refine ⟨?_, rfl⟩
  cases ip <;> cases tu <;> rfl

end Reporting

/-- Settles O56: each condition is its definition's, and the report is silent, bare or that of an IPv4 frame. -/
theorem receiveChecksumReport : Obligations.ReceiveChecksumReport := by
  intro rxcsum f trunc r ip tu ihl proto tot
  refine ⟨isIPv4_iff f, l4Checkable_iff f, l4Good_iff f, rxChecksum_of_silent f, ?_⟩
  rintro hon rfl
  refine ⟨?_, rxChecksum_of_not_ipv4 f hon, fun hip => rxChecksum_of_ipv4 f hon hip rfl rfl⟩
  rw [← rxPacketCsum_toNat, ← rxChecksum_csum f hon]

end Sys2Proof.Machine
end

section
/-! SUPPORT. What the turn of one receive descriptor writes: the proof of the statement about its row, the scan and the
frame made of them (46_receive.md R305 to R312). -/

namespace Sys2Proof.Machine

/-! ### A write of the Receive Engine -/

/-- Guest memory after a write to `a`, which a fault leaves as it was (20_memory.md R70). -/
def storedAt (holes : List Hole) (a : Addr) (v : List Byte) (m : Memory) : Memory :=
  if mappable holes a v.length = true then Memory.writeRange m a.toNat v else m

/-- The port events of a write to `a`, which records a fault as `cause` (46_receive.md R308, R310). -/
def writeEvents (cause : DmaCause) (holes : List Hole) (a : Addr) (v : List Byte) : List PortEvent :=
  if mappable holes a v.length = true then [.memWrite a v true] else [.memWrite a v false, .raised (.dma cause)]

/-- The port events of a buffer's write: an empty chunk makes none (46_receive.md R308). -/
def bufferEvents (holes : List Hole) (b : Addr) (chunk : List Byte) : List PortEvent :=
  if chunk = [] then [] else writeEvents .rxBuffer holes b chunk

theorem storedAt_read_other {holes : List Hole} {a : Addr} {v : List Byte} {m : Memory} {x : Nat}
    (h : x < a.toNat ∨ a.toNat + v.length ≤ x) : Memory.read (storedAt holes a v m) x = Memory.read m x := by
  unfold storedAt
  split
  · exact Memory.read_writeRange_other v m a.toNat x h
  · rfl

theorem rxWriteBack_eq (a : Addr) (n : Nat) (c : BitVec 16) (st er : Byte) (s : State) :
    rxWriteBack a n c st er s =
      { s with
        mem := storedAt s.holes (a + 8#64) (rxWriteBackBytes n c st er) s.mem
        out := s.out ++ writeEvents .rxWriteback s.holes (a + 8#64) (rxWriteBackBytes n c st er) } := by
  have hlen : (rxWriteBackBytes n c st er).length = 8 := rfl
  unfold storedAt writeEvents
  rw [hlen]
  rcases rxWriteBack_cases a n c st er s with ⟨hm, e⟩ | ⟨hno, e⟩
  · rw [if_pos hm, if_pos hm, e]
    rfl
  · rw [if_neg (Bool.eq_false_iff.mp hno), if_neg (Bool.eq_false_iff.mp hno), e, List.append_cons]
    rfl

theorem rxWriteBuffer_eq (b : Addr) (v : List Byte) (s : State) :
    rxWriteBuffer b v s =
      (!decide (v = [] ∨ mappable s.holes b v.length = true),
        { s with mem := storedAt s.holes b v s.mem, out := s.out ++ bufferEvents s.holes b v }) := by
  unfold storedAt bufferEvents writeEvents
  rcases rxWriteBuffer_cases b v s with ⟨rfl, e⟩ | ⟨hv, hm, e⟩ | ⟨hv, hno, e⟩ <;> rw [e]
  · simp [Memory.writeRange]
  · simp [hv, hm, State.emit]
  · simp [hv, hno, State.emit, raiseFault]

/-! ### The bytes a descriptor takes -/

/-- Bytes `j * B` to `j * B + B - 1` of the frame, as far as it goes (46_receive.md R308). -/
def frameChunk (frame : List Byte) (B j : Nat) : List Byte := (frame.drop (j * B)).take B

theorem frameChunk_length (frame : List Byte) (B j : Nat) :
    (frameChunk frame B j).length = min B (frame.length - j * B) := by
  rw [frameChunk, List.length_take, List.length_drop]

theorem frameChunk_eq_take (frame : List Byte) (B j : Nat) :
    frameChunk frame B j = (frame.drop (j * B)).take (min B (frame.length - j * B)) := by
  rw [frameChunk, ← List.length_drop, ← List.take_eq_take_min]

theorem rxChunkLen_eq (job : RxFill) : rxChunkLen job = (frameChunk job.frame job.bufSize job.index).length :=
  (frameChunk_length _ _ _).symm

theorem rxChunk_eq (job : RxFill) : rxChunk job = frameChunk job.frame job.bufSize job.index := by
  rw [rxChunk, slice, List.drop_take, Nat.add_sub_cancel_left, rxChunkLen, ← frameChunk_eq_take]

/-! ### One descriptor -/

/-- The buffer write of the descriptor whose turn it is faults (46_receive.md R308). -/
def bufferFails (holes : List Hole) (b : Addr) (job : RxFill) : Bool :=
  !decide (frameChunk job.frame job.bufSize job.index = [] ∨
    mappable holes b (frameChunk job.frame job.bufSize job.index).length = true)

/-- The device-filled half that the descriptor whose turn it is gets, `wfail` being its own buffer write
(46_receive.md R308, R310). -/
def filledHalf (job : RxFill) (last wfail : Bool) : List Byte :=
  rxWriteBackBytes (frameChunk job.frame job.bufSize job.index).length (if last then job.cs.csum else 0x0000#16)
    (rxStatus job last) (rxErrors job last wfail (job.anyfail || wfail))

theorem rxFillOne_of_idle {s : State} (h : s.rx = none) (b : Addr) : rxFillOne b s = s := by
  rw [rxFillOne, h]

theorem rxFillOne_of_no_pending {s : State} {job : RxFill} (h : s.rx = some job) (hp : job.pending = []) (b : Addr) :
    rxFillOne b s = s := by
  simp only [rxFillOne, h, hp]

/-- A descriptor's turn: its buffer is written, then its device-filled half (46_receive.md R308). -/
theorem rxFillOne_eq {s : State} {job : RxFill} {a : Addr} {rest : List Addr} (h : s.rx = some job)
    (hp : job.pending = a :: rest) (b : Addr) :
    rxFillOne b s =
      { s with
        mem :=
          storedAt s.holes (a + 8#64) (filledHalf job rest.isEmpty (bufferFails s.holes b job))
            (storedAt s.holes b (frameChunk job.frame job.bufSize job.index) s.mem)
        rx :=
          some { job with pending := rest, index := job.index + 1, anyfail := job.anyfail || bufferFails s.holes b job }
        out := s.out ++ bufferEvents s.holes b (frameChunk job.frame job.bufSize job.index) ++
          writeEvents .rxWriteback s.holes (a + 8#64)
            (filledHalf job rest.isEmpty (bufferFails s.holes b job)) } := by
  simp only [rxFillOne, h, hp, rxWriteBuffer_eq, rxWriteBack_eq, rxChunk_eq, rxChunkLen_eq]
  rfl

theorem rxStatus_eq (job : RxFill) (last : Bool) :
    rxStatus job last = if last then 0x03#8 ||| job.cs.status else 0x01#8 := by cases last <;> rfl

theorem rxErrors_eq (job : RxFill) (last wfail : Bool) :
    rxErrors job last wfail (job.anyfail || wfail) =
      (if wfail then 0x80#8 else 0#8) |||
        (if last then job.cs.errors ||| (if job.trunc || job.anyfail || wfail then 0x80#8 else 0#8) else 0#8) := by
  cases last with
  | false => exact BitVec.or_zero.symm
  | true => rw [Bool.or_assoc]; exact BitVec.or_assoc _ _ _

/-- The device-filled half, byte by byte (46_receive.md R308, R310). -/
theorem filledHalf_eq (job : RxFill) (last wfail : Bool) {n : Nat} {csum : BitVec 16}
    (hn : n = (frameChunk job.frame job.bufSize job.index).length) (hcsum : csum = if last then job.cs.csum else 0#16) :
    filledHalf job last wfail =
      [BitVec.ofNat 8 n, BitVec.ofNat 8 (n / 256), csum.extractLsb' 0 8, csum.extractLsb' 8 8,
        if last then 0x03#8 ||| job.cs.status else 0x01#8,
        (if wfail then 0x80#8 else 0#8) |||
          (if last then job.cs.errors ||| (if job.trunc || job.anyfail || wfail then 0x80#8 else 0#8) else 0#8),
        0#8, 0#8] := by
  have hlow : BitVec.ofNat 8 csum.toNat = csum.extractLsb' 0 8 := rfl
  have hhigh : BitVec.ofNat 8 (csum.toNat / 256) = csum.extractLsb' 8 8 := by
    rw [BitVec.extractLsb', Nat.shiftRight_eq_div_pow]
  rw [filledHalf, ← hn, ← hcsum, rxWriteBackBytes, putLe16, putLe16, hlow, hhigh, rxStatus_eq, rxErrors_eq]
  rfl

/-- A fill's descriptors in order are its rows in order. -/
theorem runInstrs_rxds (got : List (Addr × RxDesc)) (s : State) :
    runInstrs (got.map fun e => .rxd e.2) s = .next (got.foldl (fun t e => rxFillOne e.2.addr t) s) := by
  induction got generalizing s with
  | nil => rfl
  | cons e got ih => exact ih (rxFillOne e.2.addr s)

theorem exec_rxd (d : RxDesc) (s : State) : exec (.rxd d) s = .next (rxFillOne d.addr s) := rfl

/-! ### The rows of a frame -/

/-- Settles O54: a turn of a descriptor, one scan, and a frame as the scan and the turns of what it found. -/
theorem receiveDescriptorRow : Obligations.ReceiveDescriptorRow := by
  refine ⟨fun s d => ⟨fun h => ?_, fun job h hp => ?_, ?_⟩, fun s nr free need => ?_, ?_⟩
  · rw [exec_rxd, rxFillOne_of_idle h]
  · rw [exec_rxd, rxFillOne_of_no_pending h hp]
  · intro job a rest h hp n chunk stored wfail last status errors csum wb
    have hchunk : frameChunk job.frame job.bufSize job.index = chunk := frameChunk_eq_take _ _ _
    have hn : n = chunk.length := by rw [← hchunk, frameChunk_length]
    have hnil : chunk = [] ↔ n = 0 := by rw [hn, List.length_eq_zero_iff]
    have hfails : bufferFails s.holes d.addr job = wfail := by
      rw [bufferFails, hchunk, ← hn]
      exact congrArg (!·) (decide_eq_decide.mpr (or_congr_left hnil))
    have hhalf : filledHalf job last wfail = wb := filledHalf_eq job last wfail (hchunk ▸ hn) rfl
    have hmem : storedAt s.holes d.addr chunk s.mem =
        if n ≠ 0 ∧ stored then Memory.writeRange s.mem d.addr.toNat chunk else s.mem := by
      rw [storedAt, ← hn]
      by_cases h0 : n = 0
      · rw [hnil.mpr h0, Memory.writeRange, ite_self, if_neg fun h => h.1 h0]
      · exact if_congr (by simp [stored, h0]) rfl rfl
    have hevents : bufferEvents s.holes d.addr chunk =
        if n = 0 then [] else if stored then [.memWrite d.addr chunk true]
          else [.memWrite d.addr chunk false, .raised (.dma .rxBuffer)] := by
      rw [bufferEvents, writeEvents, ← hn]
      by_cases h0 : n = 0
      · rw [if_pos (hnil.mpr h0), if_pos h0]
      · rw [if_neg (mt hnil.mp h0), if_neg h0]
        exact if_congr (by simp [stored, h0]) rfl rfl
    rw [exec_rxd, rxFillOne_eq h hp, hfails, hchunk, hhalf, hmem, hevents]
    rfl
  · exact ⟨rxGather_of_no_free nr need s, rxGather_of_no_need nr free s, rxGather_of_mapped nr free need,
      rxGather_of_unmapped nr free need⟩
  · intro s frame B need g trunc start hhead htail hne
    obtain ⟨hdrop, hfill⟩ := receiveFrame_of_free frame hhead htail hne (need := need) (g := g) rfl rfl
    obtain ⟨k, evs, -, -, hscan, -⟩ := rxGather_scans (BitVec.isLt _).le (rxFree s) need s hhead
    have hstate : g.2 = rxScanned (rxCount s) k evs s := hscan
    refine ⟨fun h => ?_, fun h => ⟨_, runInstrs_rxds g.1 start, ?_⟩⟩
    · obtain ⟨n, hn, e⟩ := rxDrop_counts g.2
      refine ⟨n, ?_, by rw [exec_rxFrame, hdrop h, e]⟩
      rw [hn, hstate]
      rfl
    · have hreg : g.2.reg .rxcsum = s.regs.rxcsum := by rw [hstate]; rfl
      rw [exec_rxFrame, hfill h, rxFill, hreg]
      rfl

end Sys2Proof.Machine
end

section
/-! SUPPORT. A frame over descriptors that are all mapped: the proofs of the statements about a frame that fits one
buffer, one that is truncated and one that is chained (46_receive.md R300, R305 to R312). -/

namespace Sys2Proof.Machine

/-! ### The turns of mapped descriptors -/

/-- The device-filled half of descriptor `i` of the `m` in hand, when no buffer write fails. -/
def mappedHalf (job : RxFill) (m i : Nat) : List Byte := filledHalf { job with index := i } (decide (i + 1 = m)) false

/-- Guest memory after the turns of the first `j` of the `m` descriptors `es` in hand, all mapped: for each its chunk,
then its device-filled half (46_receive.md R308). -/
def mappedMem (job : RxFill) (es : Nat → Addr × RxDesc) (m j : Nat) (mem : Memory) : Memory :=
  (List.range j).foldl (fun mem i =>
    Memory.writeRange (Memory.writeRange mem (es i).2.addr.toNat (frameChunk job.frame job.bufSize i))
      ((es i).1 + 8#64).toNat (mappedHalf job m i)) mem

/-- The port events of the turn of descriptor `i` of the `m` in hand, all mapped. -/
def mappedEvents (job : RxFill) (es : Nat → Addr × RxDesc) (m i : Nat) : List PortEvent :=
  (if frameChunk job.frame job.bufSize i = [] then []
    else [.memWrite (es i).2.addr (frameChunk job.frame job.bufSize i) true]) ++
  [.memWrite ((es i).1 + 8#64) (mappedHalf job m i) true]

/-- Descriptor `i` can take its chunk and its device-filled half. -/
structure CanTake (holes : List Hole) (frame : List Byte) (B : Nat) (e : Addr × RxDesc) (i : Nat) : Prop where
  half : mappable holes (e.1 + 8#64) 8 = true
  buffer : frameChunk frame B i = [] ∨ mappable holes e.2.addr (frameChunk frame B i).length = true

/-- One turn of a mapped descriptor. -/
theorem rxFillOne_of_canTake {s : State} {job : RxFill} {e : Addr × RxDesc} {rest : List Addr} (h : s.rx = some job)
    (hp : job.pending = e.1 :: rest) (hm : CanTake s.holes job.frame job.bufSize e job.index) :
    rxFillOne e.2.addr s =
      { s with
        mem :=
          Memory.writeRange (Memory.writeRange s.mem e.2.addr.toNat (frameChunk job.frame job.bufSize job.index))
            (e.1 + 8#64).toNat (filledHalf job rest.isEmpty false)
        rx := some { job with pending := rest, index := job.index + 1 }
        out := s.out ++ ((if frameChunk job.frame job.bufSize job.index = [] then []
            else [.memWrite e.2.addr (frameChunk job.frame job.bufSize job.index) true]) ++
          [.memWrite (e.1 + 8#64) (filledHalf job rest.isEmpty false) true]) } := by
  obtain ⟨hhalf, hbuffer⟩ := hm
  have hfails : bufferFails s.holes e.2.addr job = false := by rw [bufferFails, decide_eq_true hbuffer]; rfl
  have hlen : (filledHalf job rest.isEmpty false).length = 8 := rfl
  have hany' : (job.anyfail || false) = job.anyfail := Bool.or_false _
  rw [rxFillOne_eq h hp, hfails, hany', storedAt, writeEvents, hlen, if_pos hhalf, if_pos hhalf, storedAt,
    bufferEvents, writeEvents, List.append_assoc]
  rcases hbuffer with hnil | hbuf
  · rw [hnil, Memory.writeRange, ite_self]
    rfl
  · rw [if_pos hbuf, if_pos hbuf]

/-- The fill before the turn of descriptor `j` of the `m` in hand. -/
def jobAt (job : RxFill) (es : Nat → Addr × RxDesc) (m j : Nat) : RxFill :=
  { job with pending := ((List.range m).map fun i => (es i).1).drop j, index := j }

theorem jobAt_pending (job : RxFill) (es : Nat → Addr × RxDesc) {m j : Nat} (hj : j < m) :
    (jobAt job es m j).pending = (es j).1 :: (jobAt job es m (j + 1)).pending := by
  have hlen : j < ((List.range m).map fun i => (es i).1).length := by rwa [List.length_map, List.length_range]
  rw [jobAt, List.drop_eq_getElem_cons hlen, List.getElem_map, List.getElem_range]
  rfl

/-- The last of the descriptors in hand is the one behind which none is pending. -/
theorem jobAt_pending_isEmpty (job : RxFill) (es : Nat → Addr × RxDesc) {m j : Nat} (hj : j < m) :
    (jobAt job es m (j + 1)).pending.isEmpty = decide (j + 1 = m) := by
  rw [Bool.eq_iff_iff, List.isEmpty_iff, jobAt, List.drop_eq_nil_iff, List.length_map, List.length_range,
    decide_eq_true_iff]
  omega

/-- The state after the turns of the first `j` of the `m` descriptors in hand, all mapped. -/
def rxMapped (job : RxFill) (es : Nat → Addr × RxDesc) (m j : Nat) (s : State) : State :=
  { s with
    mem := mappedMem job es m j s.mem
    rx := some (jobAt job es m j)
    out := s.out ++ (List.range j).flatMap (mappedEvents job es m) }

theorem rxFillOne_rxMapped {s : State} {job : RxFill} {es : Nat → Addr × RxDesc} {m j : Nat} (hj : j < m)
    (hm : CanTake s.holes job.frame job.bufSize (es j) j) :
    rxFillOne (es j).2.addr (rxMapped job es m j s) = rxMapped job es m (j + 1) s := by
  rw [rxFillOne_of_canTake (s := rxMapped job es m j s) rfl (jobAt_pending job es hj) hm,
    jobAt_pending_isEmpty job es hj, rxMapped, rxMapped, List.range_succ, List.flatMap_append, List.flatMap_singleton,
    ← List.append_assoc s.out, mappedMem, mappedMem, List.range_succ, List.foldl_append]
  rfl

/-- The turns of the descriptors in hand, all mapped, from the start of a fill (46_receive.md R308). -/
theorem foldl_rxFillOne_mapped {s : State} {job : RxFill} {es : Nat → Addr × RxDesc} {m : Nat}
    (h : s.rx = some (jobAt job es m 0)) (hm : ∀ i < m, CanTake s.holes job.frame job.bufSize (es i) i)
    (j : Nat) (hj : j ≤ m) :
    (List.range j).foldl (fun t i => rxFillOne (es i).2.addr t) s = rxMapped job es m j s := by
  induction j with
  | zero =>
    rw [rxMapped, ← h, List.range_zero, List.flatMap_nil, List.append_nil]
    rfl
  | succ j ih =>
    rw [List.range_succ, List.foldl_append, ih (Nat.le_of_succ_le hj), List.foldl_cons, List.foldl_nil,
      rxFillOne_rxMapped hj (hm j hj)]

/-! ### A frame over mapped descriptors -/

/-- The fill of `frame` over `m` descriptors in hand where `need` were wanted, before it lists them
(46_receive.md R308, R309). -/
def fillJob (s : State) (frame : List Byte) (m need : Nat) : RxFill :=
  { frame := frame, bufSize := rxBufSize s.regs.rctl, pending := [], index := 0, trunc := decide (m < need)
    cs := rxChecksum s.regs.rxcsum frame (decide (m < need)), anyfail := false }

theorem rxFill_mapped {s : State} {frame : List Byte} {es : Nat → Addr × RxDesc} {m need : Nat}
    (hm : ∀ i < m, CanTake s.holes frame (rxBufSize s.regs.rctl) (es i) i) :
    rxFill frame ((List.range m).map es) need (rxBufSize s.regs.rctl) s =
      { s with
        mem := mappedMem (fillJob s frame m need) es m m s.mem
        rx := none
        out := s.out ++ (List.range m).flatMap (mappedEvents (fillJob s frame m need) es m) } := by
  rw [rxFill, List.length_map, List.length_range, List.map_map, List.foldl_map]
  exact congrArg (fun t : State => { t with rx := none })
    (foldl_rxFillOne_mapped
      (s := { s with rx := some (jobAt (fillJob s frame m need) es m 0) }) rfl hm m le_rfl)

/-- A frame over descriptors that are all mapped: all fetches first, then the turns (46_receive.md R305 to R312). -/
theorem receiveFrame_mapped {s : State} {frame : List Byte} {m need : Nat} (hhead : rxHead s < rxCount s)
    (htail : rxTail s < rxCount s) (hm0 : 0 < m) (hneed : need = ceilDiv1 frame.length (rxBufSize s.regs.rctl))
    (hm : m = min (rxFree s) need)
    (hfetch : ∀ i < m, mappable s.holes (rxDescAt (rxCount s) s i) 16 = true)
    (htake : ∀ i < m, CanTake s.holes frame (rxBufSize s.regs.rctl) (rxEntryAt (rxCount s) s i) i) :
    receiveFrame frame s =
      raiseCause causeRxt0
        { s with
          regs := { s.regs with rdh := BitVec.ofNat 32 ((rxHead s + m) % rxCount s) }
          mem := mappedMem (fillJob s frame m need) (rxEntryAt (rxCount s) s) m m s.mem
          rx := none
          out := s.out ++ (List.range m).map (fun i => .memRead (rxDescAt (rxCount s) s i) 16 true) ++
            (List.range m).flatMap (mappedEvents (fillJob s frame m need) (rxEntryAt (rxCount s) s) m) } := by
  have hne : rxHead s ≠ rxTail s := by
    rw [Ne, ← rxFree_eq_zero hhead htail]
    omega
  have hgather := rxGather_all_mapped (BitVec.isLt _).le (rxFree s) need s hhead (hm ▸ hfetch)
  rw [← hm] at hgather
  obtain ⟨-, hfill⟩ := receiveFrame_of_free frame hhead htail hne hneed hgather.symm
  have hgot : (List.range m).map (rxEntryAt (rxCount s) s) ≠ [] := by
    rw [Ne, List.map_eq_nil_iff, List.range_eq_nil]
    omega
  rw [hfill hgot]
  exact congrArg (raiseCause causeRxt0) (rxFill_mapped htake)

/-- Without a report the device-filled half holds the chunk's length and the status bits of its place, and RXE on the
last of a truncated frame (46_receive.md R308, R314). -/
theorem mappedHalf_of_silent {s : State} {frame : List Byte} {m need : Nat} (i : Nat)
    (h : s.regs.rxcsum.extractLsb' 8 2 = 0#2 ∨ m < need) {n : Nat}
    (hn : n = (frameChunk frame (rxBufSize s.regs.rctl) i).length) :
    mappedHalf (fillJob s frame m need) m i =
      [BitVec.ofNat 8 n, BitVec.ofNat 8 (n / 256), 0#8, 0#8, if i + 1 = m then 0x07#8 else 0x01#8,
        if i + 1 = m ∧ m < need then 0x80#8 else 0#8, 0#8, 0#8] := by
  have hcs : (fillJob s frame m need).cs = { status := 0x04#8, errors := 0x00#8, csum := 0x0000#16 } :=
    rxChecksum_of_silent frame (h.imp_right decide_eq_true)
  rw [mappedHalf, filledHalf_eq _ _ _ (n := n) (csum := 0#16) hn (by rw [hcs]; split <;> rfl), hcs]
  by_cases hlast : i + 1 = m <;> by_cases htrunc : m < need <;> simp [hlast, htrunc, fillJob]

/-! ### One descriptor in hand -/

theorem frameChunk_zero (frame : List Byte) (B : Nat) : frameChunk frame B 0 = frame.take B := by
  rw [frameChunk, Nat.zero_mul, List.drop_zero]

/-- A frame that gets one descriptor `e`, which takes `chunk` of it (46_receive.md R308, R309). -/
theorem receiveFrame_one {s : State} {frame chunk : List Byte} {e : Addr × RxDesc} {need : Nat}
    (hhead : rxHead s < rxCount s) (htail : rxTail s < rxCount s)
    (hneed : need = ceilDiv1 frame.length (rxBufSize s.regs.rctl)) (hone : 1 = min (rxFree s) need)
    (he : rxEntryAt (rxCount s) s 0 = e) (hchunk : frame.take (rxBufSize s.regs.rctl) = chunk)
    (hfetch : mappable s.holes e.1 16 = true) (hhalf : mappable s.holes (e.1 + 8#64) 8 = true)
    (hbuffer : chunk = [] ∨ mappable s.holes e.2.addr chunk.length = true) :
    receiveFrame frame s =
      raiseCause causeRxt0
        { s with
          regs := { s.regs with rdh := BitVec.ofNat 32 ((rxHead s + 1) % rxCount s) }
          mem :=
            Memory.writeRange (Memory.writeRange s.mem e.2.addr.toNat chunk) (e.1 + 8#64).toNat
              (mappedHalf (fillJob s frame 1 need) 1 0)
          rx := none
          out := s.out ++ (.memRead e.1 16 true :: ((if chunk = [] then [] else [.memWrite e.2.addr chunk true]) ++
            [.memWrite (e.1 + 8#64) (mappedHalf (fillJob s frame 1 need) 1 0) true])) } := by
  have haddr : rxDescAt (rxCount s) s 0 = e.1 := congrArg Prod.fst he
  have hchunk0 : frameChunk frame (rxBufSize s.regs.rctl) 0 = chunk := by rw [frameChunk_zero, hchunk]
  have htake : CanTake s.holes frame (rxBufSize s.regs.rctl) e 0 := ⟨hhalf, by rwa [hchunk0]⟩
  have hfirst (i : Nat) (hi : i < 1) : i = 0 := Nat.lt_one_iff.mp hi
  rw [receiveFrame_mapped hhead htail Nat.one_pos hneed hone (fun i hi => by rwa [hfirst i hi, haddr])
    (fun i hi => by rwa [hfirst i hi, he])]
  simp only [mappedMem, mappedEvents, List.range_one, List.foldl_cons, List.foldl_nil, List.map_cons, List.map_nil,
    List.flatMap_singleton, haddr, he, List.append_assoc, List.singleton_append]
  rw [show frameChunk (fillJob s frame 1 need).frame (fillJob s frame 1 need).bufSize 0 = chunk from hchunk0]

/-- A frame of at most one buffer needs one descriptor (46_receive.md R305). -/
theorem ceilDiv1_of_le {n B : Nat} (hB : 0 < B) (h : n ≤ B) : ceilDiv1 n B = 1 := by
  have hlt : n + B - 1 < 2 * B := by omega
  have hdiv : (n + B - 1) / B ≤ 1 := Nat.le_of_lt_succ ((Nat.div_lt_iff_lt_mul hB).mpr hlt)
  rw [ceilDiv1]
  omega

/-- A longer one needs more (46_receive.md R305). -/
theorem one_lt_ceilDiv1 {n B : Nat} (hB : 0 < B) (h : B < n) : 1 < ceilDiv1 n B := by
  have hdiv : 2 ≤ (n + B - 1) / B := (Nat.le_div_iff_mul_le hB).mpr (by omega)
  rw [ceilDiv1]
  omega

/-- Settles O51: one descriptor is needed and in hand. -/
theorem frameFillsOneBuffer : Obligations.FrameFillsOneBuffer := by
  intro s frame a buf wb hhead htail hne hfits hsilent hfetch hhalf
  have hneed := ceilDiv1_of_le (rxBufSize_pos s.regs.rctl) hfits
  have hfree : rxFree s ≠ 0 := (rxFree_eq_zero hhead htail).not.mpr hne
  have hchunk : frame.take (rxBufSize s.regs.rctl) = frame := List.take_of_length_le hfits
  have hwb : mappedHalf (fillJob s frame 1 1) 1 0 = wb :=
    mappedHalf_of_silent 0 (.inl hsilent) (by rw [frameChunk_zero, hchunk])
  have hrun (hbuffer : frame = [] ∨ mappable s.holes buf frame.length = true) :=
    receiveFrame_one hhead htail hneed.symm (Nat.min_eq_right (Nat.one_le_iff_ne_zero.mpr hfree)).symm
      (rxEntryAt_zero hhead) hchunk hfetch hhalf hbuffer
  rw [hwb] at hrun
  refine ⟨fun hframe hbuf => ?_, fun hframe => ?_⟩
  · rw [exec_rxFrame, hrun (.inr hbuf), if_neg hframe]
    rfl
  · rw [exec_rxFrame, hrun (.inl hframe), if_pos hframe, hframe]
    rfl

/-- The next place is one place on, around the end of the ring too. -/
theorem places_to_next {n head : Nat} (hhead : head < n) (hn : 1 < n) : ((head + 1) % n + n - head) % n = 1 := by
  by_cases hwrap : head + 1 < n
  · rw [Nat.mod_eq_of_lt hwrap, show head + 1 + n - head = 1 + n by omega, Nat.add_mod_right, Nat.mod_eq_of_lt hn]
  · rw [show head + 1 = n by omega, Nat.mod_self, show 0 + n - head = 1 by omega, Nat.mod_eq_of_lt hn]

/-- Settles O52: more than one descriptor is needed, and one is in hand. -/
theorem frameIsTruncatedWhenDescriptorsRunOut : Obligations.FrameIsTruncatedWhenDescriptorsRunOut := by
  intro s frame a buf B wb hhead htail hnext hcount hlong hfetch hhalf hbuf
  have hB : 0 < B := rxBufSize_pos s.regs.rctl
  have hneed : 1 < ceilDiv1 frame.length B := one_lt_ceilDiv1 hB hlong
  have hlen : (frame.take B).length = B := List.length_take_of_le hlong.le
  have hfree : rxFree s = 1 := by rw [rxFree, hnext, places_to_next hhead hcount]
  have hnil : frame.take B ≠ [] := List.ne_nil_of_length_pos (by rw [hlen]; exact hB)
  have hwb : mappedHalf (fillJob s frame 1 (ceilDiv1 frame.length B)) 1 0 = wb := by
    rw [mappedHalf_of_silent 0 (.inr hneed) (n := B) (by rw [frameChunk_zero]; exact hlen.symm),
      if_pos (And.intro (Nat.zero_add 1) hneed)]
    rfl
  rw [exec_rxFrame, receiveFrame_one hhead htail rfl (by rw [hfree]; exact (Nat.min_eq_left hneed.le).symm)
    (rxEntryAt_zero hhead) rfl hfetch hhalf (.inr (hlen.symm ▸ hbuf)), if_neg hnil, hnext, hwb]
  rfl

/-! ### A chain of descriptors -/

/-- A descriptor before the last one needed has bytes of the frame to take (46_receive.md R305, R308). -/
theorem frameChunk_ne_nil {frame : List Byte} {B j : Nat} (hB : 0 < B) (hj : j < (frame.length + B - 1) / B) :
    frameChunk frame B j ≠ [] := by
  have hle : (j + 1) * B ≤ frame.length + B - 1 := (Nat.le_div_iff_mul_le hB).mp hj
  rw [Nat.succ_mul] at hle
  refine List.ne_nil_of_length_pos ?_
  rw [frameChunk_length]
  omega

/-- Settles O53: as many descriptors are in hand as the frame needs, and each takes its chunk. -/
theorem frameChainsOverDescriptors : Obligations.FrameChainsOverDescriptors := by
  intro s frame B nr n desc buf chunk wb hhead htail hframe hfree hsilent hmapped
  have hB : 0 < B := rxBufSize_pos s.regs.rctl
  have hpos : 0 < n := Nat.div_pos (by have := List.length_pos_iff.mpr hframe; omega) hB
  have hneed : n = ceilDiv1 frame.length B := (max_eq_right hpos).symm
  have hchunk (j : Nat) (hj : j < n) : chunk j ≠ [] := frameChunk_ne_nil hB hj
  have hwb (j : Nat) : mappedHalf (fillJob s frame n n) n j = wb j := by
    have hnot : ¬(j + 1 = n ∧ n < n) := fun h => Nat.lt_irrefl n h.2
    rw [mappedHalf_of_silent j (.inl hsilent) rfl, if_neg hnot]
    rfl
  have hevents (j : Nat) (hj : j < n) : mappedEvents (fillJob s frame n n) (rxEntryAt nr s) n j =
      [.memWrite (buf j) (chunk j) true, .memWrite (desc j + 8#64) (wb j) true] := by
    rw [mappedEvents, hwb]
    exact congrArg (· ++ _) (if_neg (hchunk j hj))
  have htake (j : Nat) (hj : j < n) : CanTake s.holes frame B (rxEntryAt nr s j) j := by
    obtain ⟨-, hhalf, hbuf⟩ := hmapped j hj
    exact ⟨hhalf, .inr hbuf⟩
  have hmem : mappedMem (fillJob s frame n n) (rxEntryAt nr s) n n s.mem =
      (List.range n).foldl (fun m j =>
        Memory.writeRange (Memory.writeRange m (buf j).toNat (chunk j)) (desc j + 8#64).toNat (wb j)) s.mem :=
    List.foldl_ext _ _ _ fun m j _ => by rw [hwb]; rfl
  rw [exec_rxFrame, receiveFrame_mapped hhead htail hpos hneed (min_eq_right hfree).symm (fun j hj => (hmapped j hj).1)
    htake, hmem, List.flatMap_congr fun j hj => hevents j (List.mem_range.mp hj)]
  rfl

end Sys2Proof.Machine
end

section
/-! SUPPORT. What a received frame leaves unchanged, and how far the head goes: the proof of the statement about the
head and the tail (46_receive.md R303, R306 to R313). -/

namespace Sys2Proof.Machine

/-! ### The places left -/

/-- The head passes `k` of the places to the tail, and the others are left. -/
theorem places_left {n head tail k : Nat} (hhead : head < n) (htail : tail < n) (hk : k ≤ (tail + n - head) % n) :
    (tail + n - (head + k) % n) % n = (tail + n - head) % n - k := by
  by_cases hle : head ≤ tail
  · have hfree : (tail + n - head) % n = tail - head := by
      rw [show tail + n - head = tail - head + n by omega, Nat.add_mod_right, Nat.mod_eq_of_lt (by omega)]
    rw [hfree] at hk ⊢
    rw [Nat.mod_eq_of_lt (show head + k < n by omega),
      show tail + n - (head + k) = tail - head - k + n by omega, Nat.add_mod_right, Nat.mod_eq_of_lt (by omega)]
  · have hfree : (tail + n - head) % n = tail + n - head := Nat.mod_eq_of_lt (by omega)
    rw [hfree] at hk ⊢
    by_cases hwrap : head + k < n
    · rw [Nat.mod_eq_of_lt hwrap, Nat.mod_eq_of_lt (by omega), Nat.sub_add_eq]
    · rw [Nat.mod_eq_sub_mod (show n ≤ head + k by omega), Nat.mod_eq_of_lt (show head + k - n < n by omega),
        show tail + n - (head + k - n) = tail + n - head - k + n by omega, Nat.add_mod_right,
        Nat.mod_eq_of_lt (by omega)]

/-! ### What is outside the Receive Engine -/

/-- The offload context, the PHY, the response, the transmit assembly and the environment are the same, and the ports
only gain events. -/
structure OutsideReceive (s t : State) : Prop where
  txctx : t.txctx = s.txctx
  phy0 : t.phy0 = s.phy0
  bus : t.bus = s.bus
  tx : t.tx = s.tx
  mac : t.mac = s.mac
  holes : t.holes = s.holes
  inbox : t.inbox = s.inbox
  out : s.out <+: t.out

theorem OutsideReceive.trans {s t u : State} (h : OutsideReceive s t) (k : OutsideReceive t u) : OutsideReceive s u :=
  ⟨k.txctx.trans h.txctx, k.phy0.trans h.phy0, k.bus.trans h.bus, k.tx.trans h.tx, k.mac.trans h.mac,
    k.holes.trans h.holes, k.inbox.trans h.inbox, h.out.trans k.out⟩

/-- The state after it, field by field. -/
theorem OutsideReceive.eq {s t : State} (h : OutsideReceive s t) :
    ∃ evs, t =
      { s with
        regs := t.regs, irqLine := t.irqLine, itrHoldoff := t.itrHoldoff, rxDropCount := t.rxDropCount
        rx := t.rx, mem := t.mem, out := s.out ++ evs } := by
  obtain ⟨evs, hout⟩ := h.out
  refine ⟨evs, ?_⟩
  rw [hout, ← h.txctx, ← h.phy0, ← h.bus, ← h.tx, ← h.mac, ← h.holes, ← h.inbox]

/-- The fill in progress, guest memory, the registers and the drop counter are the engine's own. -/
theorem outsideReceive_update (s : State) (regs : RegFile) (drops : BitVec 32) (rx : Option RxFill) (mem : Memory)
    (evs : List PortEvent) :
    OutsideReceive s { s with regs := regs, rxDropCount := drops, rx := rx, mem := mem, out := s.out ++ evs } :=
  ⟨rfl, rfl, rfl, rfl, rfl, rfl, rfl, ⟨evs, rfl⟩⟩

theorem rxFillOne_outsideReceive (b : Addr) (s : State) : OutsideReceive s (rxFillOne b s) := by
  cases h : s.rx with
  | none =>
    rw [rxFillOne_of_idle h]
    exact ⟨rfl, rfl, rfl, rfl, rfl, rfl, rfl, List.prefix_refl _⟩
  | some job =>
    cases hp : job.pending with
    | nil =>
      rw [rxFillOne_of_no_pending h hp]
      exact ⟨rfl, rfl, rfl, rfl, rfl, rfl, rfl, List.prefix_refl _⟩
    | cons a rest =>
      rw [rxFillOne_eq h hp, List.append_assoc]
      exact outsideReceive_update s s.regs s.rxDropCount _ _ _

theorem rxFill_outsideReceive (frame : List Byte) (got : List (Addr × RxDesc)) (need B : Nat) (s : State) :
    OutsideReceive s (rxFill frame got need B s) :=
  rxFill_keeps (P := OutsideReceive s) (fun b t ht => ht.trans (rxFillOne_outsideReceive b t))
    (fun _ _ ht => ⟨ht.txctx, ht.phy0, ht.bus, ht.tx, ht.mac, ht.holes, ht.inbox, ht.out⟩) frame got need B s
    ⟨rfl, rfl, rfl, rfl, rfl, rfl, rfl, List.prefix_refl _⟩

theorem rxFill_sameBlock (frame : List Byte) (got : List (Addr × RxDesc)) (need B : Nat) (s : State) :
    SameBlock s (rxFill frame got need B s) :=
  rxFill_keeps (P := SameBlock s) (fun b t ht => ht.trans (rxFillOne_sameBlock b t))
    (fun _ _ ht => ht.trans ⟨rfl, rfl, rfl, rfl, rfl, rfl, rfl, rfl, rfl⟩) frame got need B s (.refl s)

theorem raiseCause_outsideReceive (bits : Word) (s : State) : OutsideReceive s (raiseCause bits s) := by
  have h := raiseCause_drainFrame bits s
  exact ⟨raiseCause_txctx bits s, h.phy0, h.bus, raiseCause_tx bits s, h.mac, h.holes, h.inbox, h.out⟩

/-! ### What a fill stores -/

/-- Byte `x` is neither in the device-filled half of the descriptor nor among the first `size` bytes at its buffer. -/
structure OutsideEntry (size : Nat) (e : Addr × RxDesc) (x : Nat) : Prop where
  half : x < (e.1 + 8#64).toNat ∨ (e.1 + 8#64).toNat + 8 ≤ x
  buffer : x < e.2.addr.toNat ∨ e.2.addr.toNat + size ≤ x

/-- The turns store nothing but the chunks and the device-filled halves (46_receive.md R308, R310). -/
theorem foldl_rxFillOne_read_other {x : Nat} (got : List (Addr × RxDesc)) (s : State) (job : RxFill)
    (h : s.rx = some job) (hp : job.pending = got.map Prod.fst)
    (hx : ∀ e ∈ got, OutsideEntry (min job.bufSize job.frame.length) e x) :
    Memory.read (got.foldl (fun t e => rxFillOne e.2.addr t) s).mem x = Memory.read s.mem x := by
  induction got generalizing s job with
  | nil => rfl
  | cons e got ih =>
    obtain ⟨hhalf, hbuffer⟩ := hx e List.mem_cons_self
    have hchunk : (frameChunk job.frame job.bufSize job.index).length ≤ min job.bufSize job.frame.length := by
      rw [frameChunk_length]
      omega
    have hone : Memory.read (rxFillOne e.2.addr s).mem x = Memory.read s.mem x := by
      rw [rxFillOne_eq h hp]
      exact (storedAt_read_other hhalf).trans (storedAt_read_other (by omega))
    have hrest := rxFillOne_eq h hp e.2.addr
    refine (ih (rxFillOne e.2.addr s) _ (congrArg State.rx hrest) rfl fun d hd => ?_).trans hone
    exact hx d (List.mem_cons_of_mem e hd)

theorem rxFill_read_other {x : Nat} (frame : List Byte) (got : List (Addr × RxDesc)) (need B : Nat) (s : State)
    (hx : ∀ e ∈ got, OutsideEntry (min B frame.length) e x) :
    Memory.read (rxFill frame got need B s).mem x = Memory.read s.mem x :=
  foldl_rxFillOne_read_other got { s with rx := some _ } _ rfl rfl hx

/-! ### A frame on a usable ring -/

/-- On a usable ring the scan passes some of the free descriptors, and then the frame is dropped or fills descriptors
among them (46_receive.md R300, R306, R307). -/
theorem receiveFrame_of_usable {s : State} (frame : List Byte) (hhead : rxHead s < rxCount s)
    (htail : rxTail s < rxCount s) :
    ∃ k evs, k ≤ rxFree s ∧ (0 < rxFree s → 0 < k) ∧
      (receiveFrame frame s = rxDrop (rxScanned (rxCount s) k evs s) ∨
        ∃ got need,
          (∀ e ∈ got, ∃ j < k, mappable s.holes (rxDescAt (rxCount s) s j) 16 = true ∧
            e = rxEntryAt (rxCount s) s j) ∧
          receiveFrame frame s =
            raiseCause causeRxt0
              (rxFill frame got need (rxBufSize s.regs.rctl) (rxScanned (rxCount s) k evs s))) := by
  by_cases hmeet : rxHead s = rxTail s
  · have hfree := (rxFree_eq_zero hhead htail).mpr hmeet
    refine ⟨0, [], Nat.zero_le _, fun h => absurd hfree h.ne', .inl ?_⟩
    rw [rxScanned_nothing hhead, receiveFrame_of_unusable frame (.inr hfree)]
  · obtain ⟨k, evs, hk, hpos, hstate, hgot⟩ :=
      rxGather_scans (nr := rxCount s) (BitVec.isLt _).le (rxFree s)
        (ceilDiv1 frame.length (rxBufSize s.regs.rctl)) s hhead
    obtain ⟨hdrop, hfill⟩ := receiveFrame_of_free frame hhead htail hmeet rfl rfl
    rw [hstate] at hdrop hfill
    refine ⟨k, evs, hk, fun h => hpos h (Nat.le_max_left 1 _), ?_⟩
    by_cases hnil : (rxGather (rxCount s) (rxFree s) (ceilDiv1 frame.length (rxBufSize s.regs.rctl)) s).1 = []
    · exact .inl (hdrop hnil)
    · exact .inr ⟨_, _, hgot, hfill hnil⟩

/-- Settles O55: the scan moves the head, a drop changes the counter only, a fill writes only what the scan found. -/
theorem receiveHeadNeverPassesTheTail : Obligations.ReceiveHeadNeverPassesTheTail := by
  intro s frame hhead htail nr free desc buf size
  obtain ⟨k, scans, hk, hpos, hcases⟩ := receiveFrame_of_usable frame hhead htail
  have hscan : OutsideReceive s (rxScanned nr k scans s) := outsideReceive_update s _ s.rxDropCount s.rx s.mem scans
  rw [exec_rxFrame]
  rcases hcases with e | ⟨got, need, hgot, e⟩
  · obtain ⟨n, hn, hdrop⟩ := rxDrop_counts (rxScanned nr k scans s)
    rw [hdrop] at e
    obtain ⟨evs, heq⟩ := (hscan.trans (outsideReceive_update _ _ n _ _ [.raised .ringOverrun])).eq
    exact ⟨_, evs, k, congrArg _ e, hk, hpos, places_left hhead htail hk, heq, fun _ _ => rfl,
      .inl ⟨rfl, rfl, rfl, rfl, rfl, hn⟩⟩
  · have hblock := rxFill_sameBlock frame got need (rxBufSize s.regs.rctl) (rxScanned nr k scans s)
    obtain ⟨evs, heq⟩ :=
      ((hscan.trans (rxFill_outsideReceive frame got need (rxBufSize s.regs.rctl) _)).trans
        (raiseCause_outsideReceive causeRxt0 _)).eq
    refine ⟨_, evs, k, congrArg _ e, hk, hpos, places_left hhead htail hk, heq, fun x hx => ?_, .inr ⟨?_, ?_, ?_⟩⟩
    · rw [raiseCause_mem]
      refine rxFill_read_other frame got need _ _ fun d hd => ?_
      obtain ⟨j, hj, hmapped, rfl⟩ := hgot d hd
      obtain ⟨hhalf, hbuffer⟩ := hx j hj hmapped
      exact ⟨hhalf, hbuffer⟩
    · rw [raiseCause_regs, State.reg, hblock.regs]
      rfl
    · rw [raiseCause_rxDropCount, hblock.rxDropCount]
      rfl
    · rw [raiseCause_rx, rxFill_rx]

end Sys2Proof.Machine
end

section
/-! SUPPORT. What one operation can do, by the operation, what a step is made of, and the proofs of the statements that a
step runs the decoded operations and that every step completes (60_exceptions.md R330, R336, R360, R362). -/

namespace Sys2Proof.Machine

/-! ### What an operation can do -/

/-- What each operation does to the state; `exec_outcome` ties it to `exec`. -/
inductive ExecOutcome (s : State) : Instr → State → Prop where
  | answer (i : Instr) (v : Word) : ExecOutcome s i (yieldRead v s)
  | ignored (i : Instr) : ExecOutcome s i s
  | fault (c : AccessCause) (acc : Access) :
    ExecOutcome s (.accessFault c acc) (raiseFault (.access c) { s with bus := { reads := [], fault := true } })
  | write (r : Reg) (wv : Word) (be : BitVec 4) :
    ExecOutcome s (wrInstr wv be r) (writeHook wv be r (storeMasked r wv be s))
  | mdi (cmd : MdiCmd) : ExecOutcome s (mdiInstr cmd) (runMdi cmd s)
  | eerdStart (adr : Byte) (data : BitVec 16) : ExecOutcome s (.eerdStart adr data) (eerdStart adr data s)
  | txd (d : TxDesc) : ExecOutcome s (txdInstr d) (runTxd d s)
  | rxd (d : RxDesc) : ExecOutcome s (.rxd d) (rxFillOne d.addr s)
  | rxFrame (frame : List Byte) : ExecOutcome s (.rxFrame frame) (receiveFrame frame s)
  | tick : ExecOutcome s .timerTick (tick s)
  | powerOn : ExecOutcome s .resetPoweron (deviceReset s)

/-- Every operation answers a next state, which is its outcome: no fault is fatal (60_exceptions.md R331, R362). -/
theorem exec_outcome (s : State) : ∀ i, ∃ t, exec i s = .next t ∧ ExecOutcome s i t
  | .rdCtrl | .rdStatus | .rdEerd | .rdMdic | .rdIcr | .rdItr | .rdIcs | .rdIms | .rdImc | .rdRctl | .rdTctl | .rdRdbal
  | .rdRdbah | .rdRdlen | .rdRdh | .rdRdt | .rdTdbal | .rdTdbah | .rdTdlen | .rdTdh | .rdTdt | .rdRxcsum
  | .rdUnmapped _ => ⟨_, rfl, .answer _ _⟩
  | .wrUnmapped _ _ _ => ⟨_, rfl, .ignored _⟩
  | .accessFault c acc => ⟨_, rfl, .fault c acc⟩
  | .wrCtrl wv be => ⟨_, rfl, .write .ctrl wv be⟩
  | .wrStatus wv be => ⟨_, rfl, .write .status wv be⟩
  | .wrEerd wv be => ⟨_, rfl, .write .eerd wv be⟩
  | .wrMdic wv be => ⟨_, rfl, .write .mdic wv be⟩
  | .wrIcr wv be => ⟨_, rfl, .write .icr wv be⟩
  | .wrItr wv be => ⟨_, rfl, .write .itr wv be⟩
  | .wrIcs wv be => ⟨_, rfl, .write .ics wv be⟩
  | .wrIms wv be => ⟨_, rfl, .write .ims wv be⟩
  | .wrImc wv be => ⟨_, rfl, .write .imc wv be⟩
  | .wrRctl wv be => ⟨_, rfl, .write .rctl wv be⟩
  | .wrTctl wv be => ⟨_, rfl, .write .tctl wv be⟩
  | .wrRdbal wv be => ⟨_, rfl, .write .rdbal wv be⟩
  | .wrRdbah wv be => ⟨_, rfl, .write .rdbah wv be⟩
  | .wrRdlen wv be => ⟨_, rfl, .write .rdlen wv be⟩
  | .wrRdh wv be => ⟨_, rfl, .write .rdh wv be⟩
  | .wrRdt wv be => ⟨_, rfl, .write .rdt wv be⟩
  | .wrTdbal wv be => ⟨_, rfl, .write .tdbal wv be⟩
  | .wrTdbah wv be => ⟨_, rfl, .write .tdbah wv be⟩
  | .wrTdlen wv be => ⟨_, rfl, .write .tdlen wv be⟩
  | .wrTdh wv be => ⟨_, rfl, .write .tdh wv be⟩
  | .wrTdt wv be => ⟨_, rfl, .write .tdt wv be⟩
  | .wrRxcsum wv be => ⟨_, rfl, .write .rxcsum wv be⟩
  | .mdicRead c => ⟨_, rfl, .mdi (.read c)⟩
  | .mdicWrite c => ⟨_, rfl, .mdi (.write c)⟩
  | .mdicReserved op pa c => ⟨_, rfl, .mdi (.reserved op pa c)⟩
  | .eerdStart adr data => ⟨_, rfl, .eerdStart adr data⟩
  | .txdLegacy d => ⟨_, rfl, .txd (.legacy d)⟩
  | .txdContext d => ⟨_, rfl, .txd (.context d)⟩
  | .txdData d => ⟨_, rfl, .txd (.data d)⟩
  | .txdReserved d => ⟨_, rfl, .txd (.reserved d)⟩
  | .rxd d => ⟨_, rfl, .rxd d⟩
  | .rxFrame frame => ⟨_, rfl, .rxFrame frame⟩
  | .timerTick => ⟨_, rfl, .tick⟩
  | .resetPoweron => ⟨_, rfl, .powerOn⟩

theorem execOutcome_of_next {i : Instr} {s t : State} (h : exec i s = .next t) : ExecOutcome s i t := by
  obtain ⟨u, hu, hout⟩ := exec_outcome s i
  cases hu.symm.trans h
  exact hout

theorem exec_tick (s : State) : exec .timerTick s = .next (tick s) := rfl

theorem exec_powerOn (s : State) : exec .resetPoweron s = .next (deviceReset s) := rfl

/-! ### A step from its operations -/

/-- A list of operations completes exactly if its first does and the others complete after it (20_memory.md R66). -/
theorem runInstrs_cons_iff (i : Instr) (is : List Instr) (s t : State) :
    runInstrs (i :: is) s = .next t ↔ ∃ u, exec i s = .next u ∧ runInstrs is u = .next t := by
  rw [runInstrs]
  cases exec i s with
  | next u => simp
  | fault r => simp
  | refused r => simp

theorem runInstrs_total (is : List Instr) (s : State) : ∃ t, runInstrs is s = .next t := by
  induction is generalizing s with
  | nil => exact ⟨s, rfl⟩
  | cons i is ih =>
    obtain ⟨u, hu, -⟩ := exec_outcome s i
    obtain ⟨t, ht⟩ := ih u
    exact ⟨t, (runInstrs_cons_iff i is s t).mpr ⟨u, hu, ht⟩⟩

/-- A step on an operation of an agent runs what it decodes to from an idle response and then answers
(60_exceptions.md R360). -/
theorem step_operation {s u : State} {o : Operation} {rest : List Input} (hin : s.inbox = .op o :: rest)
    (hu : runInstrs (decodeOperation o) { s with inbox := rest, bus := Bus.idle } = .next u) :
    step s = .next (finishOperation o u) := by
  simp only [step, hin, runInput, runOperation, hu]

theorem decodeOperation_of_decode {o : Operation} {is : List Instr} (h : decode o.wire = .ok is) :
    decodeOperation o = is := by
  rw [decodeOperation, h]

/-- Settles O58: a step is the run of the decoded operations and its end, and only an access has an answer. -/
theorem stepRunsTheDecodedOperation : Obligations.StepRunsTheDecodedOperation := by
  intro s o rest hin u
  refine ⟨fun i t hdec hi => ?_, fun i j t v hdec hi hj => ?_, ?_, ?_⟩
  · refine step_operation hin ?_
    rw [decodeOperation_of_decode hdec, runInstrs_cons_iff]
    exact ⟨t, hi, rfl⟩
  · refine step_operation hin ?_
    rw [decodeOperation_of_decode hdec, runInstrs_cons_iff]
    exact ⟨t, hi, (runInstrs_cons_iff j [] t v).mpr ⟨v, hj, rfl⟩⟩
  · rintro acc t rfl
    rfl
  · intro hno t
    cases o with
    | access acc => exact absurd ⟨acc, rfl⟩ hno
    | rxFrame f => rfl
    | tick => rfl
    | powerOn => rfl

/-- What every operation keeps, and what looks neither at the schedule, the response and the environment nor at how many
events the ports have shown, a step keeps. -/
theorem step_keeps {P : State → Prop} (hexec : ∀ i s t, exec i s = .next t → P s → P t)
    (hmove : ∀ (s : State) inbox bus mem holes out, s.out <+: out → P s →
      P { s with inbox := inbox, bus := bus, mem := mem, holes := holes, out := out })
    (s t : State) (h : step s = .next t) (hs : P s) : P t := by
  have hstart (rest : List Input) : P { s with inbox := rest, bus := Bus.idle } :=
    hmove s rest _ s.mem s.holes _ (List.prefix_refl _) hs
  cases step_outcome s t h with
  | nothing => exact hs
  | guestStore a v rest => exact hmove s rest s.bus _ s.holes _ (List.prefix_refl _) hs
  | remap holes rest => exact hmove s rest s.bus s.mem holes _ (List.prefix_refl _) hs
  | access acc rest u _ hu =>
    exact hmove u u.inbox _ u.mem u.holes _ (List.prefix_append _ _)
      (runInstrs_keeps (decodeAccess acc) (fun i _ => hexec i) _ u hu (hstart rest))
  | frame f rest => exact hexec _ _ _ (exec_rxFrame f _) (hstart rest)
  | tick rest => exact hexec _ _ _ (exec_tick _) (hstart rest)
  | powerOn rest => exact hexec _ _ _ (exec_powerOn _) (hstart rest)

theorem step_total (s : State) : ∃ t, step s = .next t := by
  cases hin : s.inbox with
  | nil => exact ⟨s, by rw [step, hin]⟩
  | cons e rest =>
    cases e with
    | guestStore a v => exact ⟨_, by rw [step, hin]; rfl⟩
    | remap holes => exact ⟨_, by rw [step, hin]; rfl⟩
    | op o =>
      obtain ⟨u, hu⟩ := runInstrs_total (decodeOperation o) { s with inbox := rest, bus := Bus.idle }
      exact ⟨_, step_operation hin hu⟩

end Sys2Proof.Machine
end

section
/-! SUPPORT. Which operations change a register, and the proof of the statement about the heads and the tails
(60_exceptions.md R370). -/

namespace Sys2Proof.Machine

/-! ### The registers that an operation leaves alone -/

theorem raiseCause_reg_other (bits : Word) (s : State) {q : Reg} (hq : q ≠ .icr) : (raiseCause bits s).reg q = s.reg q :=
  (reg_congr (evaluate_regs _) q).trans (reg_setReg_other s .icr q _ hq)

theorem mdiDone_reg_other (err : Bool) (s : State) {q : Reg} (hmdic : q ≠ .mdic) (hicr : q ≠ .icr) :
    (mdiDone err s).reg q = s.reg q := by
  have hset := reg_setReg_other s .mdic q (mdicDone err (s.reg .mdic)) hmdic
  rw [mdiDone_eq, mdiNotify]
  split
  · exact (raiseCause_reg_other causeMdac _ hicr).trans hset
  · exact hset

/-- An MDI operation writes MDIC and may raise MDAC (43_eeprom_mdic.md R221). -/
theorem runMdi_reg_other (cmd : MdiCmd) (s : State) {q : Reg} (hmdic : q ≠ .mdic) (hicr : q ≠ .icr) :
    (runMdi cmd s).reg q = s.reg q := by
  have hset (u : State) (v : Word) : (u.setReg .mdic v).reg q = u.reg q := reg_setReg_other u .mdic q v hmdic
  cases cmd with
  | read c => exact (mdiDone_reg_other false _ hmdic hicr).trans ((hset _ _).trans (hset s _))
  | write c => exact (mdiDone_reg_other false _ hmdic hicr).trans ((reg_congr (phyWrite_regs _ _ _) q).trans (hset s _))
  | reserved op pa c => exact (mdiDone_reg_other true _ hmdic hicr).trans (hset s _)

theorem rxGather_reg_other (nr free need : Nat) (s : State) {q : Reg} (hq : q ≠ .rdh) :
    (rxGather nr free need s).2.reg q = s.reg q := by
  refine rxGather_keeps (P := fun t => t.reg q = s.reg q) nr (fun v hv => Eq.trans ?_ hv) free need s rfl
  rcases rxFetch_cases nr v with ⟨_, e⟩ | ⟨_, e⟩ <;> rw [e] <;> exact reg_setReg_other _ .rdh q _ hq

/-- A frame moves the head and may raise RXT0 (46_receive.md R300, R306). -/
theorem receiveFrame_reg_other (frame : List Byte) (s : State) {q : Reg} (hrdh : q ≠ .rdh) (hicr : q ≠ .icr) :
    (receiveFrame frame s).reg q = s.reg q := by
  rcases receiveFrame_cases frame s with ⟨_, e⟩ | ⟨_, _, need, g, _, hg, hcases⟩
  · rw [e]
    rfl
  · have hgather : g.2.reg q = s.reg q := by
      rw [hg]
      exact rxGather_reg_other _ _ _ s hrdh
    rcases hcases with ⟨_, e⟩ | ⟨_, e⟩ <;> rw [e]
    · exact hgather
    · exact (raiseCause_reg_other causeRxt0 _ hicr).trans
        ((reg_congr (rxFill_sameBlock frame g.1 need _ g.2).regs q).trans hgather)

theorem eerdStart_reg_other (adr : Byte) (data : BitVec 16) (s : State) {q : Reg} (hq : q ≠ .eerd) :
    (eerdStart adr data s).reg q = s.reg q :=
  (reg_setReg_other _ .eerd q _ hq).trans (reg_setReg_other s .eerd q _ hq)

/-! ### The operations that change a register -/

/-- The two operations that reset the block: the power-on event and a CTRL write with RST (70_reset_and_hazards.md R380,
41_control_regs.md R151). -/
def IsReset (i : Instr) : Prop := i = .resetPoweron ∨ ∃ wv be, i = .wrCtrl wv be ∧ wv.getLsbD 26 = true

theorem regs_of_isReset {i : Instr} {s t : State} (hi : IsReset i) (h : exec i s = .next t) : t.regs = RegFile.reset := by
  rcases hi with rfl | ⟨wv, be, rfl, hrst⟩
  · cases h
    rw [deviceReset_eq]
  · rw [exec_wrCtrl, if_pos hrst] at h
    cases h
    rw [deviceReset_eq]

/-- Besides a reset, a hook changes a register other than EERD, MDIC and the causes with their mask only where the doorbell
moves the head (40_dispatcher.md R134). -/
theorem writeHook_reg_changes {wv : Word} {be : BitVec 4} {r q : Reg} {s : State}
    (hq : q ∉ [Reg.eerd, .mdic, .icr, .ims]) (hne : (writeHook wv be r s).reg q ≠ s.reg q) :
    (r = .ctrl ∧ wv.getLsbD 26 = true) ∨ (r = .tdt ∧ q = .tdh) := by
  simp only [List.mem_cons, List.not_mem_nil, or_false, not_or] at hq
  obtain ⟨heerd, hmdic, hicr, hims⟩ := hq
  have evaluated (p : Reg) (v : Word) (hqp : q ≠ p) : (evaluate (s.setReg p v)).reg q = s.reg q :=
    (reg_congr (evaluate_regs _) q).trans (reg_setReg_other s p q v hqp)
  cases r
  case ctrl =>
    cases hrst : wv.getLsbD 26
    · rw [writeHook, hrst] at hne
      exact absurd rfl hne
    · exact .inl ⟨rfl, rfl⟩
  case tdt =>
    by_cases htdh : q = .tdh
    · exact .inr ⟨rfl, htdh⟩
    · exact absurd (txDrain_reg_other s q htdh hicr) hne
  case eerd =>
    rw [writeHook] at hne
    split at hne
    · split at hne
      · exact absurd (eerdStart_reg_other _ _ s heerd) hne
      · exact absurd (reg_setReg_other s .eerd q _ heerd) hne
    · exact absurd rfl hne
  case mdic =>
    rw [writeHook] at hne
    split at hne
    · exact absurd (runMdi_reg_other _ s hmdic hicr) hne
    · exact absurd rfl hne
  case icr => exact absurd (evaluated .icr _ hicr) hne
  case ics => exact absurd (evaluated .icr _ hicr) hne
  case ims => exact absurd (evaluated .ims _ hims) hne
  case imc => exact absurd (evaluated .ims _ hims) hne
  all_goals exact absurd rfl hne

theorem storeMasked_reg_changes {r q : Reg} {wv : Word} {be : BitVec 4} {s : State}
    (hne : (storeMasked r wv be s).reg q ≠ s.reg q) : q = r ∧ q.wmask ≠ 0#32 := by
  have hqr : q = r := by
    by_contra hqr
    exact hne (reg_setReg_other s r q _ hqr)
  subst hqr
  exact ⟨rfl, fun hmask => hne (by rw [storeMasked_of_wmask_zero hmask])⟩

/-- A register other than EERD, MDIC and the causes with their mask is changed by a reset, by its own write where it has
writable bits, and by the engine that moves it (60_exceptions.md R370, 10_state.md R14). -/
theorem exec_reg_changes {i : Instr} {s t : State} {q : Reg} (h : exec i s = .next t)
    (hq : q ∉ [Reg.eerd, .mdic, .icr, .ims]) (hne : t.reg q ≠ s.reg q) :
    IsReset i ∨ (q.wmask ≠ 0#32 ∧ ∃ wv be, i = wrInstr wv be q) ∨ (q = .tdh ∧ ∃ wv be, i = .wrTdt wv be) ∨
      (q = .rdh ∧ ∃ f, i = .rxFrame f) := by
  have hregs : q ≠ .eerd ∧ q ≠ .mdic ∧ q ≠ .icr := by
    refine ⟨?_, ?_, ?_⟩ <;> rintro rfl <;> exact absurd (by decide) hq
  obtain ⟨heerd, hmdic, hicr⟩ := hregs
  cases execOutcome_of_next h with
  | answer => exact absurd rfl hne
  | ignored => exact absurd rfl hne
  | fault => exact absurd rfl hne
  | write r wv be =>
    by_cases hhook : (writeHook wv be r (storeMasked r wv be s)).reg q = (storeMasked r wv be s).reg q
    · rw [hhook] at hne
      obtain ⟨rfl, hmask⟩ := storeMasked_reg_changes hne
      exact .inr (.inl ⟨hmask, wv, be, rfl⟩)
    · rcases writeHook_reg_changes hq hhook with ⟨rfl, hrst⟩ | ⟨rfl, htdh⟩
      · exact .inl (.inr ⟨wv, be, rfl, hrst⟩)
      · exact .inr (.inr (.inl ⟨htdh, wv, be, rfl⟩))
  | mdi cmd => exact absurd (runMdi_reg_other cmd s hmdic hicr) hne
  | eerdStart adr data => exact absurd (eerdStart_reg_other adr data s heerd) hne
  | txd d => exact absurd (reg_congr (runTxd_sameBlock d s).regs q) hne
  | rxd d => exact absurd (reg_congr (rxFillOne_sameBlock d.addr s).regs q) hne
  | rxFrame f =>
    by_cases hrdh : q = .rdh
    · exact .inr (.inr (.inr ⟨hrdh, f, rfl⟩))
    · exact absurd (receiveFrame_reg_other f s hrdh hicr) hne
  | tick => exact absurd (reg_congr (tick_regs s) q) hne
  | powerOn => exact .inl (.inl rfl)

/-- A head has no writable bits: a reset and its engine are all that change it. -/
theorem exec_head_changes {i : Instr} {s t : State} {q : Reg} (h : exec i s = .next t) (hq : q = .tdh ∨ q = .rdh)
    (hne : t.reg q ≠ s.reg q) :
    IsReset i ∨ (q = .tdh ∧ ∃ wv be, i = .wrTdt wv be) ∨ (q = .rdh ∧ ∃ f, i = .rxFrame f) := by
  have hmask : q.wmask = 0#32 := by rcases hq with rfl | rfl <;> rfl
  have hlisted : q ∉ [Reg.eerd, .mdic, .icr, .ims] := by rcases hq with rfl | rfl <;> decide
  rcases exec_reg_changes h hlisted hne with hreset | ⟨hwritable, -⟩ | hengine
  · exact .inl hreset
  · exact absurd hmask hwritable
  · exact .inr hengine

/-- A register that is no head is the guest's: a reset and its own write are all that change it. -/
theorem exec_config_changes {i : Instr} {s t : State} {q : Reg} (h : exec i s = .next t)
    (hq : q ∉ [Reg.eerd, .mdic, .icr, .ims, .tdh, .rdh]) (hne : t.reg q ≠ s.reg q) :
    IsReset i ∨ ∃ wv be, i = wrInstr wv be q := by
  have hlisted : q ∉ [Reg.eerd, .mdic, .icr, .ims] := fun hm => hq (by simp_all)
  rcases exec_reg_changes h hlisted hne with hreset | ⟨-, hown⟩ | ⟨rfl, -⟩ | ⟨rfl, -⟩
  · exact .inl hreset
  · exact .inr hown
  · exact absurd (by decide) hq
  · exact absurd (by decide) hq

/-- Settles O25: the heads by their engines, the tails by their own writes. -/
theorem headsAndTailsHaveOneOwner : Obligations.HeadsAndTailsHaveOneOwner := by
  intro i s t h isReset
  refine ⟨fun hne => ?_, fun hne => ?_, exec_config_changes (q := .tdt) h (by decide),
    exec_config_changes (q := .rdt) h (by decide)⟩
  · rcases exec_head_changes (q := .tdh) h (.inl rfl) hne with hreset | ⟨-, hdoorbell⟩ | ⟨hq, -⟩
    · exact .inl hreset
    · exact .inr hdoorbell
    · cases hq
  · rcases exec_head_changes (q := .rdh) h (.inr rfl) hne with hreset | ⟨hq, -⟩ | ⟨-, hframe⟩
    · exact .inl hreset
    · cases hq
    · exact .inr hframe

end Sys2Proof.Machine
end

section
/-! SUPPORT. The interrupt line under one operation and under a step: the proofs of the statements about Evaluate, the tick,
the line's invariants and the deferred assertion (60_exceptions.md R346 to R352). -/

namespace Sys2Proof.Machine

/-! ### Evaluate and the tick -/

theorem irqWanted_eq_false (s : State) : irqWanted s = false ↔ s.regs.icr &&& s.regs.ims = 0#32 := bne_eq_false_iff_eq

theorem irqWanted_congr {s t : State} (h : t.regs = s.regs) : irqWanted t = irqWanted s := by
  rw [irqWanted, reg_congr h, reg_congr h, irqWanted]

theorem evaluate_of_not_wanted {s : State} (hw : irqWanted s = false) :
    evaluate s = if s.irqLine then setLine false s else s := by
  rw [evaluate, hw]
  rfl

theorem evaluate_of_wanted {s : State} (hw : irqWanted s = true) :
    evaluate s =
      if s.irqLine then s
      else if s.itrHoldoff = 0#16 then { setLine true s with itrHoldoff := itrInterval s }
      else s := by
  rw [evaluate, if_pos hw]

/-- Settles O17, by the branches of Evaluate. -/
theorem evaluateAndRaiseCause : Obligations.EvaluateAndRaiseCause := by
  intro s bits
  simp only [ne_eq, ← irqWanted_eq_false, Bool.not_eq_false]
  refine ⟨fun hw hl => ?_, fun hw hl => ?_, fun hw hl hh => ?_, fun hw hl hh => ?_, fun hw hl => ?_, rfl⟩
  · rw [evaluate_of_not_wanted hw, if_pos hl]
    rfl
  · rw [evaluate_of_not_wanted hw, hl]
    rfl
  · rw [evaluate_of_wanted hw, hl, if_pos hh]
    rfl
  · rw [evaluate_of_wanted hw, hl, if_neg hh]
    rfl
  · rw [evaluate_of_wanted hw, if_pos hl]

theorem tick_of_zero {s : State} (h : s.itrHoldoff = 0#16) : tick s = s := by rw [tick, if_pos h]

theorem tick_of_one {s : State} (h : s.itrHoldoff = 1#16) : tick s = evaluate { s with itrHoldoff := 0#16 } := by
  simp [tick, h]

theorem tick_of_one_lt {s : State} (h : 1 < s.itrHoldoff.toNat) :
    tick s = { s with itrHoldoff := s.itrHoldoff - 1#16 } := by
  rcases tick_cases s with ⟨h0, _⟩ | ⟨h1, _⟩ | ⟨_, _, e⟩
  · rw [h0] at h
    exact absurd h (by decide)
  · rw [h1] at h
    exact absurd h (by decide)
  · exact e

/-- Settles O19, by the holdoff. -/
theorem tickCountsDownAndEvaluates : Obligations.TickCountsDownAndEvaluates := by
  intro s
  rw [exec_tick]
  exact ⟨fun h => by rw [tick_of_zero h], fun h => by rw [tick_of_one h], fun h => by rw [tick_of_one_lt h]⟩

/-! ### What an operation does to the line -/

/-- The line, its holdoff, the causes and their mask are the same. -/
structure SameLine (s t : State) : Prop where
  irqLine : t.irqLine = s.irqLine
  itrHoldoff : t.itrHoldoff = s.itrHoldoff
  icr : t.reg .icr = s.reg .icr
  ims : t.reg .ims = s.reg .ims

theorem SameLine.wanted {s t : State} (h : SameLine s t) : irqWanted t = irqWanted s := by
  rw [irqWanted, h.icr, h.ims, irqWanted]

/-- The interval that an assertion loads is the same as well. -/
structure SameTimer (s t : State) : Prop extends SameLine s t where
  itr : t.reg .itr = s.reg .itr

theorem SameTimer.refl (s : State) : SameTimer s s := ⟨⟨rfl, rfl, rfl, rfl⟩, rfl⟩

theorem SameTimer.trans {s t u : State} (h : SameTimer s t) (k : SameTimer t u) : SameTimer s u :=
  ⟨⟨k.irqLine.trans h.irqLine, k.itrHoldoff.trans h.itrHoldoff, k.icr.trans h.icr, k.ims.trans h.ims⟩,
    k.itr.trans h.itr⟩

theorem SameTimer.interval {s t : State} (h : SameTimer s t) : itrInterval t = itrInterval s := by
  rw [itrInterval, h.itr, itrInterval]

theorem SameTimer.of_regs {s t : State} (hregs : t.regs = s.regs) (hline : t.irqLine = s.irqLine)
    (hhold : t.itrHoldoff = s.itrHoldoff) : SameTimer s t :=
  ⟨⟨hline, hhold, reg_congr hregs .icr, reg_congr hregs .ims⟩, reg_congr hregs .itr⟩

theorem SameBlock.sameTimer {s t : State} (h : SameBlock s t) : SameTimer s t :=
  .of_regs h.regs h.irqLine h.itrHoldoff

theorem setReg_sameTimer (s : State) {r : Reg} (v : Word) (hr : r ∉ [Reg.icr, .ims, .itr]) :
    SameTimer s (s.setReg r v) := by
  refine ⟨⟨rfl, rfl, ?_, ?_⟩, ?_⟩ <;> refine reg_setReg_other s r _ v ?_ <;> rintro rfl <;> exact hr (by decide)

/-- What an operation can do to the line: leave it, its holdoff, the causes and their mask; change the causes or their mask
and evaluate; count the holdoff down, evaluating at 0; or reset the block (60_exceptions.md R346, R347, R352). -/
inductive LineOutcome (s : State) : State → Prop where
  | same {t : State} (h : SameLine s t) : LineOutcome s t
  | evaluated (u : State) (hline : u.irqLine = s.irqLine) (hhold : u.itrHoldoff = s.itrHoldoff)
    (hitr : itrInterval u = itrInterval s) : LineOutcome s (evaluate u)
  | counted (h0 : s.itrHoldoff ≠ 0#16) (h1 : s.itrHoldoff ≠ 1#16) :
    LineOutcome s { s with itrHoldoff := s.itrHoldoff - 1#16 }
  | expired (h : s.itrHoldoff = 1#16) : LineOutcome s (evaluate { s with itrHoldoff := 0#16 })
  | reset (u : State) : LineOutcome s (deviceReset u)

theorem raiseCause_lineOutcome {s u : State} (h : SameTimer s u) (bits : Word) : LineOutcome s (raiseCause bits u) :=
  .evaluated _ h.irqLine h.itrHoldoff h.interval

theorem tick_lineOutcome (s : State) : LineOutcome s (tick s) := by
  rcases tick_cases s with ⟨_, e⟩ | ⟨h1, e⟩ | ⟨h0, h1, e⟩ <;> rw [e]
  · exact .same (SameTimer.refl s).toSameLine
  · exact .expired h1
  · exact .counted h0 h1

theorem mdiDone_lineOutcome {s u : State} (h : SameTimer s u) (err : Bool) : LineOutcome s (mdiDone err u) := by
  have hset := h.trans (setReg_sameTimer u (mdicDone err (u.reg .mdic)) (r := .mdic) (by decide))
  rw [mdiDone_eq, mdiNotify]
  split
  · exact raiseCause_lineOutcome hset causeMdac
  · exact .same hset.toSameLine

theorem runMdi_lineOutcome {s u : State} (h : SameTimer s u) (cmd : MdiCmd) : LineOutcome s (runMdi cmd u) := by
  have hset (w : State) (v : Word) : SameTimer w (w.setReg .mdic v) := setReg_sameTimer w v (by decide)
  cases cmd with
  | read c => exact mdiDone_lineOutcome ((h.trans (hset u _)).trans (hset _ _)) false
  | write c =>
    have hload : SameTimer u (mdiLoad 0b01#2 Config.phyAddr c u) := hset u _
    exact mdiDone_lineOutcome ((h.trans hload).trans
      (.of_regs (phyWrite_regs _ _ _) (phyWrite_irqLine _ _ _) (phyWrite_itrHoldoff _ _ _))) false
  | reserved op pa c => exact mdiDone_lineOutcome (h.trans (hset u _)) true

/-- The rounds of a drain do not touch the line; TXDW at its end does (44_transmit.md R262). -/
theorem txDrain_lineOutcome {s u : State} (h : SameTimer s u) : LineOutcome s (txDrain u) := by
  rcases txDrain_cases u with ⟨_, e⟩ | ⟨_, v, hv, e⟩ <;> rw [e]
  · exact .same h.toSameLine
  · have hloop : SameTimer u v := by
      rw [hv]
      refine txLoop_keeps (P := SameTimer u) _ (fun w hw => ?_) _ _ (.of_regs rfl rfl rfl)
      exact (hw.trans (txStep_sameBlock w).sameTimer).trans (setReg_sameTimer _ _ (by decide))
    have hend : SameTimer s { v with tx := TxAsm.fresh } := (h.trans hloop).trans (.of_regs rfl rfl rfl)
    split
    · exact raiseCause_lineOutcome hend causeTxdw
    · exact .same hend.toSameLine

theorem rxDrop_sameTimer (s : State) : SameTimer s (rxDrop s) := .of_regs rfl rfl rfl

theorem rxFetch_sameTimer (nr : Nat) (s : State) : SameTimer s (rxFetch nr s).2 := by
  rcases rxFetch_cases nr s with ⟨_, e⟩ | ⟨_, e⟩ <;> rw [e] <;> exact ⟨⟨rfl, rfl, rfl, rfl⟩, rfl⟩

/-- The scan and the fill do not touch the line; RXT0 after them does (46_receive.md R300). -/
theorem receiveFrame_lineOutcome (frame : List Byte) (s : State) : LineOutcome s (receiveFrame frame s) := by
  rcases receiveFrame_cases frame s with ⟨_, e⟩ | ⟨_, _, need, g, _, hg, hcases⟩
  · rw [e]
    exact .same (rxDrop_sameTimer s).toSameLine
  · have hgather : SameTimer s g.2 := by
      rw [hg]
      exact rxGather_keeps (P := SameTimer s) _ (fun v hv => hv.trans (rxFetch_sameTimer _ v)) _ _ s (.refl s)
    rcases hcases with ⟨_, e⟩ | ⟨_, e⟩ <;> rw [e]
    · exact .same (hgather.trans (rxDrop_sameTimer g.2)).toSameLine
    · exact raiseCause_lineOutcome (hgather.trans (rxFill_sameBlock frame g.1 need _ g.2).sameTimer) causeRxt0

theorem wrInstr_lineOutcome (r : Reg) (wv : Word) (be : BitVec 4) (s : State) :
    LineOutcome s (writeHook wv be r (storeMasked r wv be s)) := by
  cases r
  case ctrl =>
    rw [writeHook]
    split
    · exact .reset _
    · exact .same ⟨rfl, rfl, rfl, rfl⟩
  case eerd =>
    rw [writeHook]
    split
    · split <;> exact .same ⟨rfl, rfl, rfl, rfl⟩
    · exact .same ⟨rfl, rfl, rfl, rfl⟩
  case mdic =>
    have hstore : SameTimer s (storeMasked .mdic wv be s) := setReg_sameTimer s _ (by decide)
    rw [writeHook]
    split
    · exact runMdi_lineOutcome hstore _
    · exact .same hstore.toSameLine
  case tdt => exact txDrain_lineOutcome (setReg_sameTimer s _ (by decide))
  case icr => exact .evaluated _ rfl rfl rfl
  case ics => exact .evaluated _ rfl rfl rfl
  case ims => exact .evaluated _ rfl rfl rfl
  case imc => exact .evaluated _ rfl rfl rfl
  all_goals exact .same ⟨rfl, rfl, rfl, rfl⟩

theorem exec_lineOutcome {i : Instr} {s t : State} (h : exec i s = .next t) : LineOutcome s t := by
  cases execOutcome_of_next h with
  | answer => exact .same ⟨rfl, rfl, rfl, rfl⟩
  | ignored => exact .same ⟨rfl, rfl, rfl, rfl⟩
  | fault => exact .same ⟨rfl, rfl, rfl, rfl⟩
  | write r wv be => exact wrInstr_lineOutcome r wv be s
  | mdi cmd => exact runMdi_lineOutcome (.refl s) cmd
  | eerdStart => exact .same ⟨rfl, rfl, rfl, rfl⟩
  | txd d => exact .same (runTxd_sameBlock d s).sameTimer.toSameLine
  | rxd d => exact .same (rxFillOne_sameBlock d.addr s).sameTimer.toSameLine
  | rxFrame f => exact receiveFrame_lineOutcome f s
  | tick => exact tick_lineOutcome s
  | powerOn => exact .reset s

/-! ### The invariant of the line -/

theorem SameLine.irqInv {s t : State} (h : SameLine s t) (hs : IrqInv s) : IrqInv t := by
  rwa [IrqInv, h.wanted, h.irqLine, h.itrHoldoff]

/-- Evaluate establishes the invariant from any state (60_exceptions.md R348). -/
theorem evaluate_irqInv (s : State) : IrqInv (evaluate s) := by
  rw [IrqInv, irqWanted_congr (evaluate_regs s)]
  rcases evaluate_cases s with ⟨hw, _, _, e⟩ | ⟨hw, _, e⟩ | ⟨hhold, hlow, e⟩ <;> rw [e]
  · exact ⟨fun _ => hw, fun _ hl => absurd hl (by decide : ¬true = false)⟩
  · exact ⟨fun hl => absurd hl (by decide : ¬false = true), fun hw' => absurd (hw.symm.trans hw') (by decide)⟩
  · refine ⟨fun hl => ?_, hhold⟩
    by_contra hw
    exact absurd (hl.symm.trans (hlow (Bool.eq_false_iff.mpr hw))) (by decide)

/-- No cause is pending after a reset (10_state.md R50). -/
theorem deviceReset_not_wanted (s : State) : irqWanted (deviceReset s) = false := by
  rw [deviceReset_eq]
  exact (irqWanted_eq_false _).mpr (by decide : RegFile.reset.icr &&& RegFile.reset.ims = 0#32)

theorem deviceReset_line (s : State) : (deviceReset s).irqLine = false ∧ (deviceReset s).itrHoldoff = 0#16 := by
  rw [deviceReset_eq]
  exact ⟨rfl, rfl⟩

theorem deviceReset_irqInv (s : State) : IrqInv (deviceReset s) := by
  rw [IrqInv, deviceReset_not_wanted, (deviceReset_line s).1]
  exact ⟨fun h => h, fun h => absurd h (by decide)⟩

theorem LineOutcome.irqInv {s t : State} (h : LineOutcome s t) (hs : IrqInv s) : IrqInv t := by
  cases h with
  | same h => exact h.irqInv hs
  | evaluated u => exact evaluate_irqInv u
  | counted h0 h1 =>
    refine ⟨hs.1, fun _ _ hzero => h1 ?_⟩
    simpa using congrArg (· + 1#16) hzero
  | expired => exact evaluate_irqInv _
  | reset u => exact deviceReset_irqInv u

/-- Settles O21: every operation's outcome for the line keeps the invariant, and a step is made of operations. -/
theorem stepKeepsTheLineInvariant : Obligations.StepKeepsTheLineInvariant := by
  have hexec : ∀ i s t, exec i s = .next t → IrqInv s → IrqInv t := fun i s t h => (exec_lineOutcome h).irqInv
  exact ⟨fun i s t hs h => hexec i s t h hs,
    fun s t hs h => step_keeps (P := IrqInv) hexec (fun _ _ _ _ _ _ _ hu => hu) s t h hs⟩

/-! ### The line without coalescing -/

/-- The line equals "an enabled cause is pending" and no holdoff runs (60_exceptions.md R348). -/
structure LineFollows (s : State) : Prop where
  holdoff : s.itrHoldoff = 0#16
  line : s.irqLine = irqWanted s

/-- With the interval 0 Evaluate makes the line follow, since an assertion loads the holdoff with 0. -/
theorem evaluate_lineFollows {s : State} (hitr : itrInterval s = 0#16) (hhold : s.itrHoldoff = 0#16) :
    LineFollows (evaluate s) := by
  rcases evaluate_cases s with ⟨hw, _, _, e⟩ | ⟨hw, _, e⟩ | ⟨hdeferred, hlow, e⟩ <;> rw [e]
  · exact ⟨hitr, hw.symm⟩
  · exact ⟨hhold, hw.symm⟩
  · refine ⟨hhold, ?_⟩
    cases hw : irqWanted s
    · exact hlow hw
    · by_contra hl
      exact hdeferred hw (Bool.eq_false_iff.mpr hl) hhold

theorem LineOutcome.lineFollows {s t : State} (h : LineOutcome s t) (hitr : itrInterval s = 0#16)
    (hs : LineFollows s) : LineFollows t := by
  cases h with
  | same h => exact ⟨h.itrHoldoff.trans hs.holdoff, by rw [h.irqLine, h.wanted, hs.line]⟩
  | evaluated u _ hhold hint => exact evaluate_lineFollows (hint.trans hitr) (hhold.trans hs.holdoff)
  | counted h0 => exact absurd hs.holdoff h0
  | expired h1 => exact absurd (hs.holdoff.symm.trans h1) (by decide)
  | reset u =>
    obtain ⟨hline, hhold⟩ := deviceReset_line u
    exact ⟨hhold, hline.trans (deviceReset_not_wanted u).symm⟩

/-- Only a write of ITR makes the interval another than 0 (60_exceptions.md R351). -/
theorem exec_keeps_interval_zero {i : Instr} {s t : State} (h : exec i s = .next t) (hi : ∀ wv be, i ≠ .wrItr wv be)
    (hitr : itrInterval s = 0#16) : itrInterval t = 0#16 := by
  by_cases hsame : t.reg .itr = s.reg .itr
  · rwa [itrInterval, hsame]
  · rcases exec_config_changes h (by decide) hsame with hreset | ⟨wv, be, hown⟩
    · rw [itrInterval, State.reg, regs_of_isReset hreset h]
      rfl
    · exact absurd hown (hi wv be)

theorem dwordInstr_ne_wrItr {o : DwordOp} (ho : o.a ≠ Reg.itr.offset) (dir : Dir) (wv : Word) (be : BitVec 4) :
    dwordInstr dir o ≠ .wrItr wv be := by
  intro h
  unfold dwordInstr at h
  split at h
  case h_1 r _ => cases r <;> cases h
  case h_2 r hr =>
    have hat : r.offset = o.a := by simpa using List.find?_some hr
    cases r
    case itr => exact ho hat.symm
    all_goals cases h
  case h_3 => cases h
  case h_4 => cases h

/-- An access is one operation, or two of which the first does not write ITR: ITR's offset is no multiple of 8
(30_encoding.md R92). -/
theorem decodeAccess_cases (acc : Access) :
    (∃ i, decodeAccess acc = [i]) ∨
      ∃ i j, decodeAccess acc = [i, j] ∧ ∀ wv be, i ≠ .wrItr wv be := by
  cases hc : checkAccess acc.off acc.width with
  | some c => exact .inl ⟨_, decodeAccess_failing hc⟩
  | none =>
    rw [decodeAccess_legal hc]
    obtain ⟨hwidth, -, halign⟩ := (checkAccess_eq_none _ _).mp hc
    rcases hwidth with hw | hw | hw | hw
    · rw [normalise_width_one hw]
      exact .inl ⟨_, rfl⟩
    · rw [normalise_width_two hw]
      exact .inl ⟨_, rfl⟩
    · rw [normalise_width_four hw]
      exact .inl ⟨_, rfl⟩
    · rw [normalise_width_eight hw]
      rw [hw] at halign
      refine .inr ⟨_, _, rfl, fun wv be => dwordInstr_ne_wrItr (fun hoff => ?_) acc.dir wv be⟩
      have hitr : acc.off = 0xC4 := hoff
      omega

/-- While the interval is 0 up to the last operation of an access, the line follows to its end. -/
theorem runAccess_lineFollows {acc : Access} {s t : State} (h : runInstrs (decodeAccess acc) s = .next t)
    (hitr : itrInterval s = 0#16) (hs : LineFollows s) : LineFollows t := by
  rcases decodeAccess_cases acc with ⟨i, e⟩ | ⟨i, j, e, hi⟩ <;> rw [e] at h
  · obtain ⟨u, hu, ht⟩ := (runInstrs_cons_iff i [] s t).mp h
    cases ht
    exact (exec_lineOutcome hu).lineFollows hitr hs
  · obtain ⟨u, hu, ht⟩ := (runInstrs_cons_iff i [j] s t).mp h
    obtain ⟨v, hv, ht⟩ := (runInstrs_cons_iff j [] u t).mp ht
    cases ht
    exact (exec_lineOutcome hv).lineFollows (exec_keeps_interval_zero hu hi hitr)
      ((exec_lineOutcome hu).lineFollows hitr hs)

theorem step_lineFollows {s t : State} (h : step s = .next t) (hitr : itrInterval s = 0#16) (hs : LineFollows s) :
    LineFollows t := by
  obtain ⟨hhold, hline⟩ := hs
  cases step_outcome s t h with
  | nothing => exact ⟨hhold, hline⟩
  | guestStore => exact ⟨hhold, hline⟩
  | remap => exact ⟨hhold, hline⟩
  | access acc rest u _ hu =>
    obtain ⟨uhold, uline⟩ := runAccess_lineFollows hu hitr ⟨hhold, hline⟩
    exact ⟨uhold, uline⟩
  | frame f => exact (receiveFrame_lineOutcome f _).lineFollows hitr ⟨hhold, hline⟩
  | tick => exact (tick_lineOutcome _).lineFollows hitr ⟨hhold, hline⟩
  | powerOn => exact (LineOutcome.reset _).lineFollows hitr ⟨hhold, hline⟩

/-- Settles O22: the line follows through every operation that starts with the interval 0, and of an access only the last
operation can end with another. -/
theorem lineEqualsPendingWithoutCoalescing : Obligations.LineEqualsPendingWithoutCoalescing := by
  intro s t hitr hhold hline h _
  obtain ⟨thold, tline⟩ := step_lineFollows h hitr ⟨hhold, hline⟩
  exact ⟨thold, tline⟩

/-! ### The deferred assertion -/

theorem runSteps_succ {n : Nat} {s t : State} (h : step s = .next t) : runSteps (n + 1) s = runSteps n t := by
  rw [runSteps, h]

theorem step_tick {s : State} {rest : List Input} (hin : s.inbox = .op .tick :: rest) :
    step s = .next (tick { s with inbox := rest, bus := Bus.idle }) :=
  step_operation hin ((runInstrs_cons_iff .timerTick [] _ _).mpr ⟨_, exec_tick _, rfl⟩)

/-- The last tick of the holdoff asserts the line that waits for it. -/
theorem step_last_tick {s : State} {rest : List Input} (hin : s.inbox = .op .tick :: rest) (hw : irqWanted s = true)
    (hl : s.irqLine = false) (hone : s.itrHoldoff = 1#16) :
    step s =
      .next { s with
        inbox := rest, bus := Bus.idle, irqLine := true, itrHoldoff := itrInterval s, out := s.out ++ [.irq true] } := by
  have hwanted : irqWanted { s with inbox := rest, bus := Bus.idle, itrHoldoff := 0#16 } = true := hw
  rw [step_tick hin, tick_of_one (s := { s with inbox := rest, bus := Bus.idle }) hone, evaluate_of_wanted hwanted, hl]
  rfl

/-- An earlier tick counts down and does nothing else. -/
theorem step_early_tick {s : State} {rest : List Input} (hin : s.inbox = .op .tick :: rest)
    (h : 1 < s.itrHoldoff.toNat) :
    step s = .next { s with inbox := rest, bus := Bus.idle, itrHoldoff := s.itrHoldoff - 1#16 } := by
  rw [step_tick hin, tick_of_one_lt (s := { s with inbox := rest, bus := Bus.idle }) h]

theorem toNat_sub_one {h : BitVec 16} {n : Nat} (hn : h.toNat = n + 1) : (h - 1#16).toNat = n := by
  have hlt := h.isLt
  rw [BitVec.toNat_sub]
  simp only [BitVec.toNat_ofNat]
  omega

/-- Settles O20, by induction on the holdoff: every tick but the last counts it down, the last asserts the line. -/
theorem deferredAssertionHappensAfterTheHoldoff : Obligations.DeferredAssertionHappensAfterTheHoldoff := by
  intro s n rest hw hl hn hpos hin
  obtain ⟨n, rfl⟩ : ∃ m, n = m + 1 := ⟨n - 1, by omega⟩
  induction n generalizing s with
  | zero =>
    refine ⟨fun k hk => ?_, ?_⟩
    · obtain rfl : k = 0 := by omega
      exact ⟨s, rfl, hl, hn⟩
    · rw [runSteps_succ (step_last_tick hin hw hl (BitVec.eq_of_toNat_eq hn))]
      rfl
  | succ n ih =>
    have hstep := step_early_tick hin (by omega)
    obtain ⟨hbefore, hend⟩ := ih { s with
      inbox := List.replicate (n + 1) (.op .tick) ++ rest, bus := Bus.idle, itrHoldoff := s.itrHoldoff - 1#16 }
      hw hl (toNat_sub_one hn) (Nat.succ_pos n) rfl
    refine ⟨fun k hk => ?_, ?_⟩
    · cases k with
      | zero => exact ⟨s, rfl, hl, hn⟩
      | succ k =>
        obtain ⟨t, ht, hlow, hcount⟩ := hbefore k (by omega)
        exact ⟨t, (runSteps_succ hstep).trans ht, hlow, by omega⟩
    · exact (runSteps_succ hstep).trans hend

end Sys2Proof.Machine
end

section
/-! SUPPORT. Which operations change guest memory, the frames sent, the line, the offload context, the PHY and the drop
count, and that none touches the environment: the proofs of the statements about who writes what and that every step
completes (60_exceptions.md R330, R347, R362, 10_state.md R40 to R46). -/

namespace Sys2Proof.Machine

/-! ### Frames of the operations -/

/-- The environment is the same and the ports only gain events. -/
structure EnvFrame (s t : State) : Prop where
  mac : t.mac = s.mac
  holes : t.holes = s.holes
  inbox : t.inbox = s.inbox
  out : s.out <+: t.out

/-- No frame is sent. -/
structure SilentFrame (s t : State) : Prop extends EnvFrame s t where
  sent : sentFrames t.out = sentFrames s.out

/-- Guest memory, the offload context and the drop count are the same: what neither an engine nor a reset changes. -/
structure CommandFrame (s t : State) : Prop extends SilentFrame s t where
  mem : t.mem = s.mem
  txctx : t.txctx = s.txctx
  rxDropCount : t.rxDropCount = s.rxDropCount

/-- The PHY is the same as well. -/
structure RegisterFrame (s t : State) : Prop extends CommandFrame s t where
  phy0 : t.phy0 = s.phy0

theorem DrainFrame.envFrame {s t : State} (h : DrainFrame s t) : EnvFrame s t := ⟨h.mac, h.holes, h.inbox, h.out⟩

theorem OutsideReceive.envFrame {s t : State} (h : OutsideReceive s t) : EnvFrame s t :=
  ⟨h.mac, h.holes, h.inbox, h.out⟩

theorem SilentFrame.trans {s t u : State} (h : SilentFrame s t) (k : SilentFrame t u) : SilentFrame s u :=
  ⟨⟨k.mac.trans h.mac, k.holes.trans h.holes, k.inbox.trans h.inbox, h.out.trans k.out⟩, k.sent.trans h.sent⟩

theorem CommandFrame.trans {s t u : State} (h : CommandFrame s t) (k : CommandFrame t u) : CommandFrame s u :=
  ⟨h.toSilentFrame.trans k.toSilentFrame, k.mem.trans h.mem, k.txctx.trans h.txctx, k.rxDropCount.trans h.rxDropCount⟩

theorem RegisterFrame.trans {s t u : State} (h : RegisterFrame s t) (k : RegisterFrame t u) : RegisterFrame s u :=
  ⟨h.toCommandFrame.trans k.toCommandFrame, k.phy0.trans h.phy0⟩

/-- Events that send nothing add no frame. -/
theorem sentFrames_append_silent {evs : List PortEvent} (h : sentFrames evs = []) (out : List PortEvent) :
    sentFrames (out ++ evs) = sentFrames out := by
  rw [sentFrames_append, h, List.append_nil]

/-- The registers, the line, its holdoff and the response are free, and the events send nothing. -/
theorem registerFrame_update (s : State) (regs : RegFile) (line : Bool) (hold : BitVec 16) (bus : Bus)
    {evs : List PortEvent} (h : sentFrames evs = []) :
    RegisterFrame s
      { s with regs := regs, irqLine := line, itrHoldoff := hold, bus := bus, out := s.out ++ evs } :=
  ⟨⟨⟨⟨rfl, rfl, rfl, List.prefix_append _ _⟩, sentFrames_append_silent h _⟩, rfl, rfl, rfl⟩, rfl⟩

theorem RegisterFrame.refl (s : State) : RegisterFrame s s :=
  ⟨⟨⟨⟨rfl, rfl, rfl, List.prefix_refl _⟩, rfl⟩, rfl, rfl, rfl⟩, rfl⟩

theorem setReg_registerFrame (r : Reg) (v : Word) (s : State) : RegisterFrame s (s.setReg r v) :=
  ⟨⟨⟨⟨rfl, rfl, rfl, List.prefix_refl _⟩, rfl⟩, rfl, rfl, rfl⟩, rfl⟩

theorem yieldRead_registerFrame (v : Word) (s : State) : RegisterFrame s (yieldRead v s) :=
  ⟨⟨⟨⟨rfl, rfl, rfl, List.prefix_refl _⟩, rfl⟩, rfl, rfl, rfl⟩, rfl⟩

theorem evaluate_registerFrame (s : State) : RegisterFrame s (evaluate s) := by
  rcases evaluate_cases s with ⟨_, _, _, e⟩ | ⟨_, _, e⟩ | ⟨_, _, e⟩ <;> rw [e]
  · exact registerFrame_update s _ _ _ _ (evs := [.irq true]) rfl
  · exact registerFrame_update s _ _ _ _ (evs := [.irq false]) rfl
  · exact .refl s

theorem raiseCause_registerFrame (bits : Word) (s : State) : RegisterFrame s (raiseCause bits s) :=
  (setReg_registerFrame .icr _ s).trans (evaluate_registerFrame _)

theorem tick_registerFrame (s : State) : RegisterFrame s (tick s) := by
  have hcount (v : BitVec 16) : RegisterFrame s { s with itrHoldoff := v } :=
    ⟨⟨⟨⟨rfl, rfl, rfl, List.prefix_refl _⟩, rfl⟩, rfl, rfl, rfl⟩, rfl⟩
  rcases tick_cases s with ⟨_, e⟩ | ⟨_, e⟩ | ⟨_, _, e⟩ <;> rw [e]
  · exact .refl s
  · exact (hcount 0#16).trans (evaluate_registerFrame _)
  · exact hcount _

theorem eerdStart_registerFrame (adr : Byte) (data : BitVec 16) (s : State) :
    RegisterFrame s (eerdStart adr data s) :=
  (setReg_registerFrame .eerd _ s).trans (setReg_registerFrame .eerd _ _)

theorem mdiDone_registerFrame (err : Bool) (s : State) : RegisterFrame s (mdiDone err s) := by
  have hset := setReg_registerFrame .mdic (mdicDone err (s.reg .mdic)) s
  rw [mdiDone_eq, mdiNotify]
  split
  · exact hset.trans (raiseCause_registerFrame causeMdac _)
  · exact hset

theorem mdiRead_registerFrame (c : MdiFields) (s : State) : RegisterFrame s (mdiRead c s) :=
  ((setReg_registerFrame .mdic _ s).trans (setReg_registerFrame .mdic _ _)).trans (mdiDone_registerFrame false _)

theorem mdiReserved_registerFrame (op : BitVec 2) (pa : BitVec 5) (c : MdiFields) (s : State) :
    RegisterFrame s (mdiReserved op pa c s) :=
  (setReg_registerFrame .mdic _ s).trans (mdiDone_registerFrame true _)

theorem phyWrite_commandFrame (r : BitVec 5) (v : BitVec 16) (s : State) : CommandFrame s (phyWrite r v s) := by
  have hout : (phyWrite r v s).out = s.out := phyWrite_out r v s
  exact ⟨⟨⟨phyWrite_mac r v s, phyWrite_holes r v s, phyWrite_inbox r v s, by rw [hout]⟩, by rw [hout]⟩,
    phyWrite_mem r v s, phyWrite_txctx r v s, phyWrite_rxDropCount r v s⟩

theorem mdiWrite_commandFrame (c : MdiFields) (s : State) : CommandFrame s (mdiWrite c s) :=
  ((setReg_registerFrame .mdic _ s).toCommandFrame.trans (phyWrite_commandFrame _ _ _)).trans
    (mdiDone_registerFrame false _).toCommandFrame

theorem runMdi_commandFrame (cmd : MdiCmd) (s : State) : CommandFrame s (runMdi cmd s) := by
  cases cmd with
  | read c => exact (mdiRead_registerFrame c s).toCommandFrame
  | write c => exact mdiWrite_commandFrame c s
  | reserved op pa c => exact (mdiReserved_registerFrame op pa c s).toCommandFrame

theorem deviceReset_silentFrame (s : State) : SilentFrame s (deviceReset s) := by
  have hsilent : sentFrames (if s.irqLine then [.irq false] else []) = [] := by split <;> rfl
  rw [deviceReset_eq]
  exact ⟨⟨rfl, rfl, rfl, List.prefix_append _ _⟩, sentFrames_append_silent hsilent _⟩

/-! ### Frames of the engines -/

theorem txDrain_drainFrame (s : State) : DrainFrame s (txDrain s) := by
  rcases txDrain_cases s with ⟨_, e⟩ | ⟨_, u, hu, e⟩
  · rw [e]
    exact .refl s
  · have hloop : RoundFrame { s with tx := TxAsm.fresh } u := by
      rw [hu]
      exact txLoop_keeps _ (fun v hv => hv.trans (drainRound_roundFrame _ v)) _ _ (.refl _)
    have hdrain := hloop.toDrainFrame.trans (endDrain_drainFrame u)
    rw [e]
    exact ⟨hdrain.rxDropCount, hdrain.phy0, hdrain.bus, hdrain.rx, hdrain.mac, hdrain.holes, hdrain.inbox, hdrain.out⟩

theorem runTxd_drainFrame (d : TxDesc) (s : State) : DrainFrame s (runTxd d s) := by
  have hblock := runTxd_sameBlock d s
  exact ⟨hblock.rxDropCount, hblock.phy0, hblock.bus, (runTxd_txFrame d s).rx, hblock.mac, hblock.holes, hblock.inbox,
    runTxd_out d s⟩

theorem sentFrames_writeEvents (cause : DmaCause) (holes : List Hole) (a : Addr) (v : List Byte) :
    sentFrames (writeEvents cause holes a v) = [] := by
  unfold writeEvents
  split <;> rfl

theorem sentFrames_bufferEvents (holes : List Hole) (b : Addr) (chunk : List Byte) :
    sentFrames (bufferEvents holes b chunk) = [] := by
  unfold bufferEvents
  split
  · rfl
  · exact sentFrames_writeEvents _ _ _ _

/-- What is outside the Receive Engine is the same, and no frame is sent. -/
structure SilentReceive (s t : State) : Prop extends OutsideReceive s t where
  sent : sentFrames t.out = sentFrames s.out

theorem SilentReceive.refl (s : State) : SilentReceive s s :=
  ⟨⟨rfl, rfl, rfl, rfl, rfl, rfl, rfl, List.prefix_refl _⟩, rfl⟩

theorem SilentReceive.trans {s t u : State} (h : SilentReceive s t) (k : SilentReceive t u) : SilentReceive s u :=
  ⟨h.toOutsideReceive.trans k.toOutsideReceive, k.sent.trans h.sent⟩

/-- The engine's own fields are free, and the events send nothing. -/
theorem silentReceive_update (s : State) (regs : RegFile) (drops : BitVec 32) (rx : Option RxFill) (mem : Memory)
    {evs : List PortEvent} (h : sentFrames evs = []) :
    SilentReceive s { s with regs := regs, rxDropCount := drops, rx := rx, mem := mem, out := s.out ++ evs } :=
  ⟨outsideReceive_update s regs drops rx mem evs, sentFrames_append_silent h _⟩

theorem rxFetch_silentReceive (nr : Nat) (s : State) : SilentReceive s (rxFetch nr s).2 := by
  rcases rxFetch_cases nr s with ⟨_, e⟩ | ⟨_, e⟩ <;> rw [e]
  · exact silentReceive_update s _ s.rxDropCount s.rx s.mem (evs := [.memRead _ _ true]) rfl
  · rw [raiseFault, State.emit, State.emit, List.append_assoc]
    exact silentReceive_update s _ s.rxDropCount s.rx s.mem
      (evs := [.memRead _ _ false, .raised (.dma .rxDescFetch)]) rfl

theorem rxFillOne_silentReceive (b : Addr) (s : State) : SilentReceive s (rxFillOne b s) := by
  cases h : s.rx with
  | none =>
    rw [rxFillOne_of_idle h]
    exact .refl s
  | some job =>
    cases hp : job.pending with
    | nil =>
      rw [rxFillOne_of_no_pending h hp]
      exact .refl s
    | cons a rest =>
      rw [rxFillOne_eq h hp, List.append_assoc]
      refine silentReceive_update s s.regs s.rxDropCount _ _ ?_
      rw [sentFrames_append, sentFrames_bufferEvents, sentFrames_writeEvents]
      rfl

theorem rxDrop_silentReceive (s : State) : SilentReceive s (rxDrop s) :=
  silentReceive_update s s.regs _ s.rx s.mem (evs := [.raised .ringOverrun]) rfl

/-- A received frame stays inside its engine and sends nothing (46_receive.md R300). -/
theorem receiveFrame_silentReceive (frame : List Byte) (s : State) : SilentReceive s (receiveFrame frame s) := by
  rcases receiveFrame_cases frame s with ⟨_, e⟩ | ⟨_, _, need, g, _, hg, hcases⟩
  · rw [e]
    exact rxDrop_silentReceive s
  · have hgather : SilentReceive s g.2 := by
      rw [hg]
      exact rxGather_keeps (P := SilentReceive s) _ (fun v hv => hv.trans (rxFetch_silentReceive _ v)) _ _ s (.refl s)
    rcases hcases with ⟨_, e⟩ | ⟨_, e⟩ <;> rw [e]
    · exact hgather.trans (rxDrop_silentReceive g.2)
    · have hfill : SilentReceive s (rxFill frame g.1 need (rxBufSize (s.reg .rctl)) g.2) :=
        rxFill_keeps (P := SilentReceive s) (fun b v hv => hv.trans (rxFillOne_silentReceive b v))
          (fun v x hv => hv.trans ⟨⟨rfl, rfl, rfl, rfl, rfl, rfl, rfl, List.prefix_refl _⟩, rfl⟩) frame g.1 need _ g.2
          hgather
      exact hfill.trans ⟨raiseCause_outsideReceive causeRxt0 _, (raiseCause_registerFrame causeRxt0 _).sent⟩

/-! ### Who writes what -/

/-- A write of TDT, which starts a drain (44_transmit.md R240). -/
def IsDoorbell (i : Instr) : Prop := ∃ wv be, i = .wrTdt wv be

/-- One of the four transmit rows. -/
def IsTxd (i : Instr) : Prop :=
  (∃ d, i = .txdLegacy d) ∨ (∃ d, i = .txdContext d) ∨ (∃ d, i = .txdData d) ∨ ∃ d, i = .txdReserved d

/-- A write of MDIC or a command of it. -/
def IsMdi (i : Instr) : Prop :=
  (∃ wv be, i = .wrMdic wv be) ∨ (∃ c, i = .mdicRead c) ∨ (∃ c, i = .mdicWrite c) ∨ ∃ op pa c, i = .mdicReserved op pa c

/-- The operations that can write the PHY (43_eeprom_mdic.md R224, R225). -/
def IsPhyWriter (i : Instr) : Prop := (∃ wv be, i = .wrMdic wv be) ∨ ∃ c, i = .mdicWrite c

theorem isTxd_txdInstr (d : TxDesc) : IsTxd (txdInstr d) := by
  cases d with
  | legacy d => exact .inl ⟨d, rfl⟩
  | context d => exact .inr (.inl ⟨d, rfl⟩)
  | data d => exact .inr (.inr (.inl ⟨d, rfl⟩))
  | reserved d => exact .inr (.inr (.inr ⟨d, rfl⟩))

theorem isMdi_mdiInstr (cmd : MdiCmd) : IsMdi (mdiInstr cmd) := by
  cases cmd with
  | read c => exact .inr (.inl ⟨c, rfl⟩)
  | write c => exact .inr (.inr (.inl ⟨c, rfl⟩))
  | reserved op pa c => exact .inr (.inr (.inr ⟨op, pa, c, rfl⟩))

/-- What each class of operations leaves alone; what it can write is the rest. -/
inductive Writes (s t : State) (i : Instr) : Prop where
  | registers (h : RegisterFrame s t)
  | reset (hi : IsReset i) (h : SilentFrame s t) (hmem : t.mem = s.mem)
  | phy (hi : IsPhyWriter i) (h : CommandFrame s t)
  | doorbell (hi : IsDoorbell i) (h : DrainFrame s t)
  | descriptor (d : TxDesc) (hi : i = txdInstr d) (h : DrainFrame s t) (hctx : (∀ c, d ≠ .context c) → t.txctx = s.txctx)
  | buffer (hi : ∃ d, i = .rxd d) (h : SilentReceive s t) (hdrop : t.rxDropCount = s.rxDropCount)
  | frame (hi : ∃ f, i = .rxFrame f) (h : SilentReceive s t)

theorem writeHook_writes (r : Reg) (wv : Word) (be : BitVec 4) (s : State) :
    Writes s (writeHook wv be r (storeMasked r wv be s)) (wrInstr wv be r) := by
  have hstore : RegisterFrame s (storeMasked r wv be s) := setReg_registerFrame r _ s
  have hevaluate (q : Reg) (v : Word) : RegisterFrame s (evaluate ((storeMasked r wv be s).setReg q v)) :=
    (hstore.trans (setReg_registerFrame q v _)).trans (evaluate_registerFrame _)
  cases r
  case ctrl =>
    cases hrst : wv.getLsbD 26 <;> rw [writeHook, hrst]
    · exact .registers hstore
    · exact .reset (.inr ⟨wv, be, rfl, hrst⟩) (hstore.toSilentFrame.trans (deviceReset_silentFrame _))
        ((deviceReset_sameProgress _).mem)
  case eerd =>
    rw [writeHook]
    split
    · split
      · exact .registers (hstore.trans (eerdStart_registerFrame _ _ _))
      · exact .registers (hstore.trans (setReg_registerFrame .eerd _ _))
    · exact .registers hstore
  case mdic =>
    rw [writeHook]
    split
    · exact .phy (.inl ⟨wv, be, rfl⟩) (hstore.toCommandFrame.trans (runMdi_commandFrame _ _))
    · exact .registers hstore
  case tdt =>
    exact .doorbell ⟨wv, be, rfl⟩ ((setReg_roundFrame .tdt _ s).toDrainFrame.trans (txDrain_drainFrame _))
  case icr => exact .registers (hevaluate .icr _)
  case ics => exact .registers (hevaluate .icr _)
  case ims => exact .registers (hevaluate .ims _)
  case imc => exact .registers (hevaluate .ims _)
  all_goals exact .registers hstore

theorem exec_writes {i : Instr} {s t : State} (h : exec i s = .next t) : Writes s t i := by
  cases execOutcome_of_next h with
  | answer i v => exact .registers (yieldRead_registerFrame v s)
  | ignored => exact .registers (.refl s)
  | fault c => exact .registers (registerFrame_update s _ _ _ _ (evs := [.raised (.access c)]) rfl)
  | write r wv be => exact writeHook_writes r wv be s
  | mdi cmd =>
    cases cmd with
    | read c => exact .registers (mdiRead_registerFrame c s)
    | write c => exact .phy (.inr ⟨c, rfl⟩) (mdiWrite_commandFrame c s)
    | reserved op pa c => exact .registers (mdiReserved_registerFrame op pa c s)
  | eerdStart adr data => exact .registers (eerdStart_registerFrame adr data s)
  | txd d => exact .descriptor d rfl (runTxd_drainFrame d s) (runTxd_txctx d s)
  | rxd d => exact .buffer ⟨d, rfl⟩ (rxFillOne_silentReceive d.addr s) (rxFillOne_sameBlock d.addr s).rxDropCount
  | rxFrame f => exact .frame ⟨f, rfl⟩ (receiveFrame_silentReceive f s)
  | tick => exact .registers (tick_registerFrame s)
  | powerOn => exact .reset (.inl rfl) (deviceReset_silentFrame s) (deviceReset_sameProgress s).mem

section Writers

variable {s t : State} {i : Instr}

theorem Writes.envFrame (h : Writes s t i) : EnvFrame s t := by
  cases h with
  | registers h => exact h.toEnvFrame
  | reset _ h => exact h.toEnvFrame
  | phy _ h => exact h.toEnvFrame
  | doorbell _ h => exact h.envFrame
  | descriptor _ _ h => exact h.envFrame
  | buffer _ h => exact h.envFrame
  | frame _ h => exact h.envFrame

/-- Guest memory is written by the engines only (10_state.md R47, 20_memory.md R68). -/
theorem Writes.mem (h : Writes s t i) (hne : t.mem ≠ s.mem) :
    IsDoorbell i ∨ IsTxd i ∨ (∃ d, i = .rxd d) ∨ ∃ f, i = .rxFrame f := by
  cases h with
  | registers h => exact absurd h.mem hne
  | reset _ _ hmem => exact absurd hmem hne
  | phy _ h => exact absurd h.mem hne
  | doorbell hi => exact .inl hi
  | descriptor d hi => exact .inr (.inl (hi ▸ isTxd_txdInstr d))
  | buffer hi => exact .inr (.inr (.inl hi))
  | frame hi => exact .inr (.inr (.inr hi))

/-- Frames are sent by the Transmit Engine only (10_state.md R46). -/
theorem Writes.sent (h : Writes s t i) (hne : sentFrames t.out ≠ sentFrames s.out) : IsDoorbell i ∨ IsTxd i := by
  cases h with
  | registers h => exact absurd h.sent hne
  | reset _ h => exact absurd h.sent hne
  | phy _ h => exact absurd h.sent hne
  | doorbell hi => exact .inl hi
  | descriptor d hi => exact .inr (hi ▸ isTxd_txdInstr d)
  | buffer _ h => exact absurd h.sent hne
  | frame _ h => exact absurd h.sent hne

/-- The context is loaded by a CONTEXT descriptor (10_state.md R42). -/
theorem Writes.txctx (h : Writes s t i) (hne : t.txctx ≠ s.txctx) :
    IsReset i ∨ IsDoorbell i ∨ ∃ d, i = .txdContext d := by
  cases h with
  | registers h => exact absurd h.txctx hne
  | reset hi => exact .inl hi
  | phy _ h => exact absurd h.txctx hne
  | doorbell hi => exact .inr (.inl hi)
  | descriptor d hi _ hctx =>
    cases d with
    | context d => exact .inr (.inr ⟨d, hi⟩)
    | legacy d => exact absurd (hctx fun _ => nofun) hne
    | data d => exact absurd (hctx fun _ => nofun) hne
    | reserved d => exact absurd (hctx fun _ => nofun) hne
  | buffer _ h => exact absurd h.txctx hne
  | frame _ h => exact absurd h.txctx hne

/-- The PHY is written through MDIC (43_eeprom_mdic.md R224). -/
theorem Writes.phy0 (h : Writes s t i) (hne : t.phy0 ≠ s.phy0) : IsReset i ∨ IsPhyWriter i := by
  cases h with
  | registers h => exact absurd h.phy0 hne
  | reset hi => exact .inl hi
  | phy hi => exact .inr hi
  | doorbell _ h => exact absurd h.phy0 hne
  | descriptor _ _ h => exact absurd h.phy0 hne
  | buffer _ h => exact absurd h.phy0 hne
  | frame _ h => exact absurd h.phy0 hne

/-- Only a received frame counts as dropped (10_state.md R44). -/
theorem Writes.rxDropCount (h : Writes s t i) (hne : t.rxDropCount ≠ s.rxDropCount) :
    IsReset i ∨ ∃ f, i = .rxFrame f := by
  cases h with
  | registers h => exact absurd h.rxDropCount hne
  | reset hi => exact .inl hi
  | phy _ h => exact absurd h.rxDropCount hne
  | doorbell _ h => exact absurd h.rxDropCount hne
  | descriptor _ _ h => exact absurd h.rxDropCount hne
  | buffer _ _ hdrop => exact absurd hdrop hne
  | frame hi => exact .inr hi

end Writers

/-! ### Who moves the line -/

/-- The operations that evaluate the line, count its holdoff down or reset it (60_exceptions.md R347). -/
def MovesLine (i : Instr) : Prop :=
  IsReset i ∨ (∃ wv be, i = .wrIcr wv be) ∨ (∃ wv be, i = .wrIcs wv be) ∨ (∃ wv be, i = .wrIms wv be) ∨
    (∃ wv be, i = .wrImc wv be) ∨ IsMdi i ∨ IsDoorbell i ∨ (∃ f, i = .rxFrame f) ∨ i = .timerTick

theorem not_line_changed {s t : State} (hline : t.irqLine = s.irqLine) (hhold : t.itrHoldoff = s.itrHoldoff) :
    ¬(t.irqLine ≠ s.irqLine ∨ t.itrHoldoff ≠ s.itrHoldoff) :=
  fun h => h.elim (· hline) (· hhold)

theorem wrInstr_movesLine {r : Reg} {wv : Word} {be : BitVec 4} {s t : State}
    (ht : t = writeHook wv be r (storeMasked r wv be s))
    (hne : t.irqLine ≠ s.irqLine ∨ t.itrHoldoff ≠ s.itrHoldoff) : MovesLine (wrInstr wv be r) := by
  subst ht
  cases r
  case ctrl =>
    cases hrst : wv.getLsbD 26
    · rw [writeHook, hrst] at hne
      exact absurd hne (not_line_changed rfl rfl)
    · exact .inl (.inr ⟨wv, be, rfl, hrst⟩)
  case icr => exact .inr (.inl ⟨wv, be, rfl⟩)
  case ics => exact .inr (.inr (.inl ⟨wv, be, rfl⟩))
  case ims => exact .inr (.inr (.inr (.inl ⟨wv, be, rfl⟩)))
  case imc => exact .inr (.inr (.inr (.inr (.inl ⟨wv, be, rfl⟩))))
  case mdic => exact .inr (.inr (.inr (.inr (.inr (.inl (.inl ⟨wv, be, rfl⟩))))))
  case tdt => exact .inr (.inr (.inr (.inr (.inr (.inr (.inl ⟨wv, be, rfl⟩))))))
  case eerd =>
    rw [writeHook] at hne
    split at hne
    · split at hne <;> exact absurd hne (not_line_changed rfl rfl)
    · exact absurd hne (not_line_changed rfl rfl)
  all_goals exact absurd hne (not_line_changed rfl rfl)

theorem exec_movesLine {i : Instr} {s t : State} (h : exec i s = .next t)
    (hne : t.irqLine ≠ s.irqLine ∨ t.itrHoldoff ≠ s.itrHoldoff) : MovesLine i := by
  cases execOutcome_of_next h with
  | answer => exact absurd hne (not_line_changed rfl rfl)
  | ignored => exact absurd hne (not_line_changed rfl rfl)
  | fault => exact absurd hne (not_line_changed rfl rfl)
  | write r wv be => exact wrInstr_movesLine rfl hne
  | mdi cmd => exact .inr (.inr (.inr (.inr (.inr (.inl (isMdi_mdiInstr cmd))))))
  | eerdStart => exact absurd hne (not_line_changed rfl rfl)
  | txd d =>
    have hblock := runTxd_sameBlock d s
    exact absurd hne (not_line_changed hblock.irqLine hblock.itrHoldoff)
  | rxd d =>
    have hblock := rxFillOne_sameBlock d.addr s
    exact absurd hne (not_line_changed hblock.irqLine hblock.itrHoldoff)
  | rxFrame f => exact .inr (.inr (.inr (.inr (.inr (.inr (.inr (.inl ⟨f, rfl⟩)))))))
  | tick => exact .inr (.inr (.inr (.inr (.inr (.inr (.inr (.inr rfl)))))))
  | powerOn => exact .inl (.inl rfl)

/-- Settles O26, part by part, from what each class of operations leaves alone. -/
theorem onlyTheirWritersChangeThem : Obligations.OnlyTheirWritersChangeThem := by
  intro i s t h isReset isTxd isMdi
  have hwrites := exec_writes h
  obtain ⟨hmac, hholes, hinbox, -⟩ := hwrites.envFrame
  exact ⟨hmac, hholes, hinbox, hwrites.mem, hwrites.sent, exec_movesLine h, hwrites.txctx, hwrites.phy0,
    hwrites.rxDropCount⟩

/-! ### Every step completes -/

/-- A step adds port events to those so far and leaves the MAC (60_exceptions.md R331, 43_eeprom_mdic.md R218). -/
theorem step_adds_events {s t : State} (h : step s = .next t) : s.out <+: t.out ∧ t.mac = s.mac := by
  refine step_keeps (P := fun u => s.out <+: u.out ∧ u.mac = s.mac) ?_ ?_ s t h ⟨List.prefix_refl _, rfl⟩
  · rintro i u v hv ⟨hout, hmac⟩
    have henv := (exec_writes hv).envFrame
    exact ⟨hout.trans henv.out, henv.mac.trans hmac⟩
  · rintro u _ _ _ _ out hadd ⟨hout, hmac⟩
    exact ⟨hout.trans hadd, hmac⟩

/-- Settles O59: a step answers a next state and adds events; the tables of R330 by evaluation. -/
theorem noStepStops : Obligations.NoStepStops := by
  refine ⟨fun s => ?_, rfl, rfl, rfl⟩
  obtain ⟨t, ht⟩ := step_total s
  obtain ⟨⟨evs, hout⟩, hmac⟩ := step_adds_events ht
  exact ⟨t, evs, ht, hout.symm, hmac⟩

end Sys2Proof.Machine
end

section
/-! SUPPORT. What the engines do to a state with another value in a register that they do not look at: the proof of the
statement that RCTL.EN gates no reception and TCTL no drain (70_reset_and_hazards.md R402). -/

namespace Sys2Proof.Machine

/-! ### The shared operations and a register that they do not look at -/

theorem RegFile.set_comm (f : RegFile) (v w : Word) {r q : Reg} (h : r ≠ q) :
    (f.set v r).set w q = (f.set w q).set v r := by
  cases r <;> cases q <;> first | rfl | exact absurd rfl h

theorem setReg_comm (s : State) (v w : Word) {r q : Reg} (h : r ≠ q) :
    (s.setReg r v).setReg q w = (s.setReg q w).setReg r v := by
  simp only [State.setReg, RegFile.set_comm s.regs v w h]

theorem memRead_setReg (a : Addr) (n : Nat) (s : State) (r : Reg) (v : Word) :
    memRead a n (s.setReg r v) = ((memRead a n s).1, (memRead a n s).2.setReg r v) := by
  rw [memRead, setReg_holes, memRead]
  split <;> rfl

theorem memWrite_setReg (a : Addr) (bytes : List Byte) (s : State) (r : Reg) (v : Word) :
    memWrite a bytes (s.setReg r v) = ((memWrite a bytes s).1, (memWrite a bytes s).2.setReg r v) := by
  rw [memWrite, setReg_holes, memWrite]
  split <;> rfl

/-- The line is driven by the causes, their mask and the interval (60_exceptions.md R347). -/
theorem evaluate_setReg (s : State) {r : Reg} (v : Word) (hr : r ∉ [Reg.icr, .ims, .itr]) :
    evaluate (s.setReg r v) = (evaluate s).setReg r v := by
  have hsame := setReg_sameTimer s v hr
  rw [evaluate, hsame.wanted, hsame.interval, setReg_irqLine, setReg_itrHoldoff, evaluate]
  split_ifs <;> rfl

theorem raiseCause_setReg (bits : Word) (s : State) {r : Reg} (v : Word) (hr : r ∉ [Reg.icr, .ims, .itr]) :
    raiseCause bits (s.setReg r v) = (raiseCause bits s).setReg r v := by
  have hicr : r ≠ .icr := by rintro rfl; exact hr (by decide)
  rw [raiseCause, reg_setReg_other s r .icr v hicr.symm, setReg_comm s v _ hicr, evaluate_setReg _ v hr, raiseCause]

/-! ### A received frame and RCTL -/

theorem rxFetch_setRctl (nr : Nat) (s : State) (v : Word) :
    rxFetch nr (s.setReg .rctl v) = ((rxFetch nr s).1, (rxFetch nr s).2.setReg .rctl v) := by
  have haddr : rxDescAddr (s.setReg .rctl v) = rxDescAddr s := rfl
  rw [rxFetch, haddr, memRead_setReg, rxFetch]
  rcases memRead (rxDescAddr s) Config.descSize s with ⟨_ | d, u⟩ <;> rfl

theorem rxGather_setRctl (nr free need : Nat) (s : State) (v : Word) :
    rxGather nr free need (s.setReg .rctl v) =
      ((rxGather nr free need s).1, (rxGather nr free need s).2.setReg .rctl v) := by
  induction free generalizing need s with
  | zero => rfl
  | succ free ih =>
    cases need with
    | zero => rfl
    | succ need =>
      rw [rxGather, rxFetch_setRctl, rxGather]
      rcases rxFetch nr s with ⟨_ | e, u⟩
      · exact ih (need + 1) u
      · simp only [ih]

theorem rxWriteBuffer_setReg (buf : Addr) (chunk : List Byte) (s : State) (r : Reg) (v : Word) :
    rxWriteBuffer buf chunk (s.setReg r v) =
      ((rxWriteBuffer buf chunk s).1, (rxWriteBuffer buf chunk s).2.setReg r v) := by
  rw [rxWriteBuffer, memWrite_setReg, rxWriteBuffer]
  split
  · rfl
  · rcases memWrite buf chunk s with ⟨_ | _, u⟩ <;> rfl

theorem rxWriteBack_setReg (a : Addr) (n : Nat) (csum : BitVec 16) (status errors : Byte) (s : State) (r : Reg)
    (v : Word) :
    rxWriteBack a n csum status errors (s.setReg r v) = (rxWriteBack a n csum status errors s).setReg r v := by
  rw [rxWriteBack, memWrite_setReg, rxWriteBack]
  rcases memWrite (a + 8#64) (rxWriteBackBytes n csum status errors) s with ⟨_ | _, u⟩ <;> rfl

theorem rxFillOne_setReg (buf : Addr) (s : State) (r : Reg) (v : Word) :
    rxFillOne buf (s.setReg r v) = (rxFillOne buf s).setReg r v := by
  rw [rxFillOne, setReg_rx, rxFillOne]
  split
  · rfl
  · split
    · rfl
    · simp only [rxWriteBuffer_setReg, rxWriteBack_setReg]
      generalize rxWriteBack _ _ _ _ _ _ = u
      rfl

theorem rxFill_setRctl (frame : List Byte) (got : List (Addr × RxDesc)) (need B : Nat) (s : State) (v : Word) :
    rxFill frame got need B (s.setReg .rctl v) = (rxFill frame got need B s).setReg .rctl v := by
  have hfold (u : State) :
      got.foldl (fun t e => rxFillOne e.2.addr t) (u.setReg .rctl v) =
        (got.foldl (fun t e => rxFillOne e.2.addr t) u).setReg .rctl v :=
    List.foldl_hom (State.setReg · .rctl v) fun t e => rxFillOne_setReg e.2.addr t .rctl v
  rw [rxFill, rxFill]
  exact congrArg (fun t : State => { t with rx := none }) (hfold { s with rx := some _ })

/-- RCTL enters a frame's reception through the buffer size only (46_receive.md R300, R302). -/
theorem receiveFrame_setRctl {s : State} {v : Word} (hsize : rxBufSize v = rxBufSize (s.reg .rctl))
    (frame : List Byte) : receiveFrame frame (s.setReg .rctl v) = (receiveFrame frame s).setReg .rctl v := by
  have hring : ringRefused (rxCount (s.setReg .rctl v)) (rxHead (s.setReg .rctl v)) (rxTail (s.setReg .rctl v)) =
      ringRefused (rxCount s) (rxHead s) (rxTail s) := rfl
  have hfree : rxFree (s.setReg .rctl v) = rxFree s := rfl
  have hcount : rxCount (s.setReg .rctl v) = rxCount s := rfl
  have hrctl : (s.setReg .rctl v).reg .rctl = v := rfl
  rw [receiveFrame, hring, hfree, receiveFrame]
  split
  · rfl
  · split
    · rfl
    · simp only [hcount, hrctl, hsize, rxGather_setRctl, rxFill_setRctl]
      split
      · rfl
      · exact raiseCause_setReg causeRxt0 _ v (by decide)

/-- EN, bit 1 of RCTL, is none of the bits that give the buffer size (46_receive.md R302). -/
theorem rxBufSize_flip_en (rctl : Word) : rxBufSize (rctl ^^^ 0x00000002#32) = rxBufSize rctl := by
  have hbsex : (rctl ^^^ 0x00000002#32).getLsbD 25 = rctl.getLsbD 25 := by simp
  have hbsize : (rctl ^^^ 0x00000002#32).extractLsb' 16 2 = rctl.extractLsb' 16 2 := by
    rw [BitVec.extractLsb'_xor]
    exact BitVec.xor_zero
  simp only [rxBufSize, hbsex, hbsize]

/-! ### A drain and TCTL -/

theorem startPacket_setReg (kind : TxKind) (tse : Bool) (popts : Byte) (s : State) (r : Reg) (v : Word) :
    startPacket kind tse popts (s.setReg r v) = (startPacket kind tse popts s).setReg r v := by
  rw [startPacket, setReg_tx, startPacket]
  split <;> rfl

theorem gatherBuffer_setReg (a : Addr) (len : Nat) (s : State) (r : Reg) (v : Word) :
    gatherBuffer a len (s.setReg r v) = ((gatherBuffer a len s).1, (gatherBuffer a len s).2.setReg r v) := by
  rw [gatherBuffer, memRead_setReg, gatherBuffer]
  split
  · rfl
  · rcases memRead a len s with ⟨_ | b, u⟩
    · rfl
    · dsimp only
      rw [setReg_tx]
      split_ifs <;> rfl

theorem txComplete_setReg (ic : Option (Byte × Byte)) (s : State) (r : Reg) (v : Word) :
    txComplete ic (s.setReg r v) = ((txComplete ic s).1, (txComplete ic s).2.setReg r v) := by
  rw [txComplete_eq, txComplete_eq]
  rfl

theorem endPacket_setReg (eop : Bool) (ic : Option (Byte × Byte)) (s : State) (r : Reg) (v : Word) :
    endPacket eop ic (s.setReg r v) = ((endPacket eop ic s).1, (endPacket eop ic s).2.setReg r v) := by
  simp only [endPacket, txComplete_setReg, setReg_tx]
  split_ifs <;> rfl

theorem txWriteBack_setTctl (rsv : BitVec 4) (sta : Option (BitVec 4)) (s : State) (v : Word) :
    txWriteBack rsv sta (s.setReg .tctl v) = (txWriteBack rsv sta s).setReg .tctl v := by
  have haddr : txDescAddr (s.setReg .tctl v) = txDescAddr s := rfl
  cases sta with
  | none => rfl
  | some b =>
    simp only [txWriteBack, haddr, memWrite_setReg]
    rcases memWrite (txDescAddr s + 12#64) [rsv ++ b] s with ⟨_ | _, u⟩ <;> rfl

theorem finishDesc_setTctl (rs : Bool) (rsv : BitVec 4) (failed offerr : Bool) (s : State) (v : Word) :
    finishDesc rs rsv failed offerr (s.setReg .tctl v) = (finishDesc rs rsv failed offerr s).setReg .tctl v := by
  rw [finishDesc, txWriteBack_setTctl]
  rfl

theorem runTxd_setTctl (d : TxDesc) (s : State) (v : Word) :
    runTxd d (s.setReg .tctl v) = (runTxd d s).setReg .tctl v := by
  cases d with
  | legacy d =>
    simp only [runTxd, txLegacy, startPacket_setReg, gatherBuffer_setReg, endPacket_setReg, finishDesc_setTctl]
  | context d =>
    simp only [runTxd, txContext, ← finishDesc_setTctl]
    rfl
  | data d =>
    simp only [runTxd, txData, startPacket_setReg, gatherBuffer_setReg, endPacket_setReg, finishDesc_setTctl]
  | reserved d =>
    simp only [runTxd, txReserved, startPacket_setReg, ← finishDesc_setTctl]
    cases d.eop <;> rfl

theorem txStep_setTctl (s : State) (v : Word) : txStep (s.setReg .tctl v) = (txStep s).setReg .tctl v := by
  have haddr : txDescAddr (s.setReg .tctl v) = txDescAddr s := rfl
  rw [txStep, haddr, memRead_setReg, txStep]
  rcases memRead (txDescAddr s) Config.descSize s with ⟨_ | d, u⟩
  · rfl
  · exact runTxd_setTctl _ u v

theorem advanceTdh_setTctl (nt : Nat) (s : State) (v : Word) :
    advanceTdh nt (s.setReg .tctl v) = (advanceTdh nt s).setReg .tctl v := rfl

theorem txLoop_setTctl (nt fuel : Nat) (s : State) (v : Word) :
    txLoop nt fuel (s.setReg .tctl v) = (txLoop nt fuel s).setReg .tctl v := by
  induction fuel generalizing s with
  | zero => rfl
  | succ fuel ih =>
    have hhead : txHead (s.setReg .tctl v) = txHead s := rfl
    have htail : txTail (s.setReg .tctl v) = txTail s := rfl
    rw [txLoop, hhead, htail, txStep_setTctl, advanceTdh_setTctl, ih, txLoop]
    split <;> rfl

/-- A drain looks at the transmit ring's registers and at what drives the line (44_transmit.md R241, R262). -/
theorem txDrain_setTctl (s : State) (v : Word) : txDrain (s.setReg .tctl v) = (txDrain s).setReg .tctl v := by
  have hring : ringRefused (txCount (s.setReg .tctl v)) (txHead (s.setReg .tctl v)) (txTail (s.setReg .tctl v)) =
      ringRefused (txCount s) (txHead s) (txTail s) := rfl
  have hloop : txLoop (txCount (s.setReg .tctl v)) (txCount (s.setReg .tctl v))
      { s.setReg .tctl v with tx := TxAsm.fresh } =
        (txLoop (txCount s) (txCount s) { s with tx := TxAsm.fresh }).setReg .tctl v :=
    txLoop_setTctl (txCount s) (txCount s) { s with tx := TxAsm.fresh } v
  rw [txDrain, hring, txDrain]
  split
  · rfl
  · simp only [hloop]
    generalize txLoop (txCount s) (txCount s) { s with tx := TxAsm.fresh } = u
    rw [setReg_tx]
    split
    · exact raiseCause_setReg causeTxdw { u with tx := TxAsm.fresh } v (by decide)
    · rfl

theorem storeMasked_setReg (wv : Word) (be : BitVec 4) (s : State) {r q : Reg} (v : Word) (h : r ≠ q) :
    storeMasked q wv be (s.setReg r v) = (storeMasked q wv be s).setReg r v := by
  rw [storeMasked, reg_setReg_other s r q v h.symm, setReg_comm s v _ h, storeMasked]

/-! ### The statement -/

/-- Settles O57: EN is no bit of the buffer size, through which alone RCTL enters a reception, and a drain looks at no
bit of TCTL. -/
theorem enablesDoNotGate : Obligations.EnablesDoNotGate := by
  intro s t
  refine ⟨fun frame h => ?_, fun wv be v h => ?_⟩
  · rw [exec_rxFrame] at h
    cases h
    have hrctl : (receiveFrame frame s).regs.rctl = s.regs.rctl :=
      receiveFrame_reg_other frame s (q := .rctl) (by decide) (by decide)
    rw [hrctl]
    exact congrArg Host.Outcome.next (receiveFrame_setRctl (rxBufSize_flip_en s.regs.rctl) frame)
  · rw [exec_wrTdt] at h
    cases h
    have hstore := storeMasked_setReg wv be s (r := .tctl) (q := .tdt) v (by decide)
    exact congrArg Host.Outcome.next ((congrArg txDrain hstore).trans (txDrain_setTctl _ v))

end Sys2Proof.Machine
end
